-- ==== Sys2Proof/Word.lean ====
section
/-! DEFINITION. The word types of the preamble_detector core.

R9 (00_scope.md): every register is 32 bits, the register window is addressed by a 13-bit byte
offset, bit offsets into the capture are 16-bit fields, and frames are made of bytes. -/

namespace Sys2Proof

/-- One byte of the frame buffer or of the capture memory. -/
abbrev Byte := BitVec 8

/-- A register, a command word or the data of a bus transaction (R9). -/
abbrev Word := BitVec 32

/-- A byte offset into the 8 KiB register window (R13, R50). -/
abbrev Offset := BitVec 13

/-- A bit offset into the capture: CAP_LEN, START_OFFSET, MATCH_OFFSET (R9). -/
abbrev BitOffset := BitVec 16

end Sys2Proof
end

