-- ==== Sys2Proof/Config.lean ====
section
/-! DEFINITION. What a build of the hardware fixes (R5 to R7), and the free values: the contents of
the capture memory that nothing has written (R47) and the values read while a command runs (R86). -/

namespace Sys2Proof

/-- The build parameters of one instance (R5, R6, R7). They are arguments of the model, fixed for
its whole run (R48). `Machine.State` carries them, since a step has no other argument. -/
structure Build where
  /-- REPEAT_COUNT, written R in the formulas (R5). -/
  repeatCount : Nat
  /-- COMPARE_PAUSE = 1 (R6). -/
  comparePause : Bool
  /-- CAP_BITS_MAX, the capacity of the capture memory in bits (R7). -/
  capBitsMax : Nat
  deriving DecidableEq, Repr

/-- The values R5 and R7 admit: "A build with any other value is not this hardware". -/
abbrev Build.Legal (b : Build) : Prop :=
  3 ≤ b.repeatCount ∧ b.repeatCount ≤ 5 ∧ b.capBitsMax % 32 = 0 ∧
    96 * b.repeatCount ≤ b.capBitsMax ∧ b.capBitsMax ≤ 32768

/-- The build of the spec's test vectors (95_test_vectors.md, R17, R18). DESIGN CHOICE for the state
after reset: REPEAT_COUNT and CAP_BITS_MAX are OPEN in the spec (D10, D12), and no statement rests
on these values. See notes/assumptions/1.md. -/
def Config.referenceBuild : Build where
  repeatCount := 3
  comparePause := false
  capBitsMax := 1024

/-- CAP_INIT (R47): the power-up contents of the capture memory, byte `n` holding the capture bits
`8n` to `8n + 7`, first bit most significant. A free value: it has no body, so that every claim
holds for every contents, and it reads the same each time. See notes/assumptions/2.md. -/
opaque Config.capInit : Nat → Byte

/-- The "any value, drawn independently for every read" of R86: the value of the `n`-th such read.
A free value without a body. See notes/assumptions/3.md. DESIGN CHOICE, notes/assumptions/24.md: one
function serves every instance and every run, so two of them that have made equally many open reads
draw the same value next, where R86 and R124 leave such values unrelated. -/
opaque Config.busyRead : Nat → Word

end Sys2Proof
end

