-- ==== Sys2Proof/Syntax.lean ====
section
/-! DEFINITION. The commands of the hardware: one constructor per row of spec/opcode_table.json
(R70, 30_encoding.md). A command is the 32-bit word written to the CMD register. -/

namespace Sys2Proof

/-- A command. No command names a register or an immediate (R69). Every operand is taken from the
registers and memories of the block when the command runs. The two illegal rows are commands too:
they are issued and end in a rejection (R71, R84). -/
inductive Instr where
  /-- NOP, word 0x00000000 (R82). -/
  | nop
  /-- DECODE, word 0x00000001 (R81). -/
  | decode
  /-- LOCATE, word 0x00000002 (R90). -/
  | locate
  /-- EXTRACT, word 0x00000003 (R95). -/
  | extract
  /-- VALIDATE, word 0x00000004 (R100). -/
  | validate
  /-- FIELDS, word 0x00000005 (R112). -/
  | fields
  /-- CLEAR, word 0x00000006 (R83). -/
  | clear
  /-- ILLEGAL_7, the reserved word 0x00000007 (R71, R84). -/
  | illegal7
  /-- ILLEGAL_MBZ, every word with a nonzero bit in [31:3]. The table's fields m (bits [31:3])
  and o (bits [2:0]) are kept, so that the word can be written back (R69, R71, R84). -/
  | illegalMbz (mbz : BitVec 29) (op : BitVec 3)
  deriving DecidableEq, Repr

end Sys2Proof
end

