-- ==== Sys2Proof/Machine/State.lean ====
section
/-! DEFINITION. The state of one instance of the block, as plain data, and its value at reset.

Every register and memory of 10_state.md is a field. `build`, `inputs`, `turns` and `freeReads` are
the model's own: the arguments R48 keeps out of the block's state, the outside world's next moves,
the scheduler's choices (R119) and a counter for the free values of R86. -/

namespace Sys2Proof.Machine

/-- The engine: ENG of R15 with the pending command PEND of R46, which has a meaning only while
ENG = BUSY. -/
inductive Engine where
  | idle
  | busy (pend : Word)
  deriving DecidableEq, Repr

/-- The values of STATUS.REASON (R73). Codes 6 to 15 are never produced. -/
inductive Reason where
  | none
  | preambleNotFound
  | insufficientBits
  | repeatMismatch
  | illegalCommand
  | precondition
  deriving DecidableEq, Repr

/-- The eight result registers, the SensorReading (R34 to R41). -/
structure Results where
  device : Word
  temperature : Word
  humidity : Word
  rain : Word
  rainVolume : Word
  windSpeed : Word
  windDir : Word
  windLabel : Word
  deriving DecidableEq, Repr

/-- The result registers when there is no reading (R42). -/
def Results.zero : Results := ⟨0, 0, 0, 0, 0, 0, 0, 0⟩

/-- A host transaction, the request of the bus port (R13, R50). -/
inductive BusOp where
  /-- `BusRead(off)`. -/
  | read (off : Offset)
  /-- `BusWrite(off, data, be)`. -/
  | write (off : Offset) (data : Word) (be : BitVec 4)
  deriving DecidableEq, Repr

/-- One thing the outside world does to the block. -/
inductive Stimulus where
  /-- The host presents a transaction. -/
  | bus (op : BusOp)
  /-- The host's loop WAIT: it reads STATUS until BUSY reads 0 (R75). -/
  | wait
  /-- A clock edge with `rst = 1`, with the transaction presented in that cycle, if any (R127). -/
  | reset (presented : Option BusOp)
  deriving DecidableEq, Repr

/-- Who takes the next step while the engine is BUSY (R119: "the scheduler's choice"). -/
inductive Turn where
  | host
  | engine
  deriving DecidableEq, Repr

/-- The response of the bus port (R13, R50). -/
structure Response where
  rdata : Word
  err : Bool
  deriving DecidableEq, Repr

/-- The memories of the register window, FRAME_BUF and CAP_MEM (R43, R44, R49), as (byte offset in
the window, byte) pairs in one canonical form: see `Memory.wf` in Machine/Ops.lean. -/
abbrev Memory := List Host.Cell

/-- One instance of the block. -/
structure State where
  /-- The build parameters, constant in a run (R5 to R7, R48), which CONFIG and CAP_SIZE read back
  (R17, R18). -/
  build : Build
  /-- ENG and PEND (R15, R46). STATUS.BUSY is 1 exactly while this is `busy` (R22). -/
  eng : Engine
  /-- CTRL.INVERT (R19). -/
  invert : Bool
  /-- CAP_LEN (R31). -/
  capLen : BitOffset
  /-- START_OFFSET (R32). -/
  startOffset : BitOffset
  /-- MATCH_OFFSET (R33). -/
  matchOffset : BitOffset
  /-- STATUS.DONE (R23). -/
  done : Bool
  /-- STATUS.REJECTED (R24). -/
  rejected : Bool
  /-- STATUS.REASON (R25). -/
  reason : Reason
  /-- STATUS.FOUND (R26). -/
  found : Bool
  /-- STATUS.EXTRACTED (R27). -/
  extracted : Bool
  /-- STATUS.VALID (R28). -/
  valid : Bool
  /-- STATUS.READING (R29). -/
  reading : Bool
  /-- STATUS.ERR_BUSY_WRITE (R30). -/
  errBusyWrite : Bool
  /-- DEVICE to WIND_LABEL (R34 to R41). -/
  results : Results
  /-- FRAME_BUF and CAP_MEM (R43, R44). -/
  mem : Memory
  /-- What the outside world does next, oldest first. The model's own. -/
  inputs : List Stimulus
  /-- The scheduler's choices for the next steps taken while BUSY. The model's own. -/
  turns : List Turn
  /-- The port's response to the last transaction; none before the first one. -/
  resp : Option Response
  /-- How many "any value" reads there have been (R86). The model's own. Each instance counts its own
  (notes/assumptions/24.md). -/
  freeReads : Nat
  deriving DecidableEq, Repr

/-- Faults. There is none: no rule stops the block ("never by a fault that stops the block", R126;
"Nothing in this hardware is stuck", 93_implementation_defined.md). A BusError is a response and not
a fault (R117), and a rejection is a next state (R116). No one raises a fault. -/
inductive Fault where
  deriving DecidableEq, Repr

/-- Refusals. -/
inductive Refusal where
  /-- Raised only by an arm of `exec` whose instruction has no meaning yet. Safe: nothing is claimed
  of that instruction. No arm of this model raises it. -/
  | notModelled (mnemonic : String)
  deriving DecidableEq, Repr

/-- What the next step is: a command runs on a state, or the step is already complete. -/
inductive Action where
  | run (i : Instr) (s : State)
  | done (s : State)
  deriving DecidableEq, Repr

/-- A block of the build `b` after power-up and reset (R127): every register at the value 10_state.md
R16 gives, no command pending, FRAME_BUF all 0x00, CAP_MEM unwritten. -/
def State.powerUp (b : Build) : State where
  build := b
  eng := .idle
  invert := false
  capLen := 0
  startOffset := 0
  matchOffset := 0xFFFF
  done := false
  rejected := false
  reason := .none
  found := false
  extracted := false
  valid := false
  reading := false
  errBusyWrite := false
  results := Results.zero
  mem := []
  inputs := []
  turns := []
  resp := none
  freeReads := 0

/-- The machine right after reset, in the reference build (R127). -/
def State.reset : State := State.powerUp Config.referenceBuild

end Sys2Proof.Machine
end

