-- ==== Sys2Proof/Machine/Ops.lean ====
section
/-! DEFINITION. Named operations over the memories and the registers: reading and writing bytes and
words of memory, the response of the port, issue and completion of a command (R77, R78), the
rejection primitive (R115), and the reset edge (R127). -/

namespace Sys2Proof.Machine

/-! ## Memory -/

/-- The byte offset of FRAME_BUF in the register window (R16). -/
def frameBase : Nat := 0x100

/-- The byte offset of CAP_MEM in the register window (R16). -/
def capBase : Nat := 0x1000

/-- L, the bytes of a frame (R8). -/
def frameBytes : Nat := 12

/-- The bytes of FRAME_BUF in the build `b` (R43). -/
def frameLen (b : Build) : Nat := frameBytes * b.repeatCount

/-- What an unlisted address holds: 0x00 below CAP_MEM, which is FRAME_BUF after reset (R43), and
nothing yet in CAP_MEM, whose power-up contents are the free value CAP_INIT (R47). -/
def Memory.blank (a : Nat) : Option Byte := if a < capBase then some 0 else none

/-- The byte listed at `a`. -/
def Memory.lookup : Memory → Nat → Option Byte
  | [], _ => none
  | c :: m, a => if c.1 = a then some c.2 else Memory.lookup m a

/-- The byte read at `a`: the listed one; where none is listed, what an unlisted address holds; in
CAP_MEM that is the power-up contents, the same at every read (R47). -/
def Memory.read (m : Memory) (a : Nat) : Byte :=
  match m.lookup a with
  | some v => v
  | none =>
    match Memory.blank a with
    | some v => v
    | none => Config.capInit (a - capBase)

/-- Lists `v` at `a`, in address order. -/
def Memory.insert : Memory → Nat → Byte → Memory
  | [], a, v => [(a, v)]
  | c :: m, a, v =>
    if a < c.1 then (a, v) :: c :: m
    else if a = c.1 then (a, v) :: m
    else c :: Memory.insert m a v

/-- Removes what is listed at `a`. -/
def Memory.erase : Memory → Nat → Memory
  | [], _ => []
  | c :: m, a => if c.1 = a then Memory.erase m a else c :: Memory.erase m a

/-- Writes one byte and keeps the canonical form: the value an unlisted address holds removes the
entry. -/
def Memory.write (m : Memory) (a : Nat) (v : Byte) : Memory :=
  if Memory.blank a = some v then m.erase a else m.insert a v

/-- Writes the bytes `vs` from `a` on. -/
def Memory.writeBytes : Memory → Nat → List Byte → Memory
  | m, _, [] => m
  | m, a, v :: vs => Memory.writeBytes (m.write a v) (a + 1) vs

/-- The canonical form: addresses strictly rising, and no entry equal to what an unlisted address
holds. -/
abbrev Memory.wf (m : Memory) : Prop :=
  m.Pairwise (fun c d => c.1 < d.1) ∧ ∀ c ∈ m, Memory.blank c.1 ≠ some c.2

/-- The word at `a`, the byte at the lowest address most significant (R55, R56). -/
def Memory.readWord (m : Memory) (a : Nat) : Word :=
  m.read a ++ m.read (a + 1) ++ m.read (a + 2) ++ m.read (a + 3)

/-- The four bytes of a word, most significant first (R55, R56). -/
def wordBytes (w : Word) : List Byte :=
  [w.extractLsb' 24 8, w.extractLsb' 16 8, w.extractLsb' 8 8, w.extractLsb' 0 8]

/-- Writes a word at `a`, the most significant byte at the lowest address (R55). -/
def Memory.writeWord (m : Memory) (a : Nat) (w : Word) : Memory := m.writeBytes a (wordBytes w)

/-! ## Registers and the port -/

/-- ENG = BUSY, which is STATUS.BUSY (R22). -/
def State.isBusy (s : State) : Bool :=
  match s.eng with
  | .idle => false
  | .busy _ => true

/-- The port answers a transaction (R50). -/
def State.answer (s : State) (rdata : Word) (err : Bool) : State :=
  { s with resp := some ⟨rdata, err⟩ }

/-- The sentinel "not found" of MATCH_OFFSET (R33). -/
def notFound : BitOffset := 0xFFFF

/-- FRAME_BUF all 0x00 (R83, R127). -/
def State.clearFrame (s : State) : State :=
  { s with mem := s.mem.writeBytes frameBase (List.replicate (frameLen s.build) 0) }

/-- The bytes `bs` go to FRAME_BUF from FB[0] on (R94). -/
def State.writeFrame (s : State) (bs : List Byte) : State :=
  { s with mem := s.mem.writeBytes frameBase bs }

/-! ## Issue and completion of a command -/

/-- The issue of a command other than NOP: ENG <- BUSY, PEND <- w, DONE <- 0 (R77). -/
def State.beginCommand (s : State) (w : Word) : State :=
  { s with eng := .busy w, done := false }

/-- `BusyDrop()`: the written data is discarded (R85). -/
def State.busyDrop (s : State) : State := { s with errBusyWrite := true }

/-- The record of a command that ended by `complete()` (R78). -/
def State.recordComplete (s : State) : State :=
  { s with rejected := false, reason := .none, done := true, eng := .idle }

/-- The record of a command that ended by `reject(code)` (R78, R115). -/
def State.recordReject (s : State) (code : Reason) : State :=
  { s with rejected := true, reason := code, done := true, eng := .idle }

/-- How a command's pseudocode has gone so far, with every write made so far: still running, or ended
by `reject(code)`. -/
inductive Progress where
  | running (s : State)
  | rejected (code : Reason) (s : State)
  deriving DecidableEq, Repr

/-- The next lines of the pseudocode: they run only if no `reject` was reached before (R115). -/
def Progress.andThen (p : Progress) (f : State → Progress) : Progress :=
  match p with
  | .running s => f s
  | .rejected code s => .rejected code s

/-- The completion step of a command (R78). It is also all there is of taking an exception: a
rejection records REJECTED, REASON and DONE, saves nothing and transfers control nowhere (R115,
R121), and there is no return from one (R122). -/
def Progress.finish (p : Progress) : Host.Outcome State Fault Refusal :=
  match p with
  | .running s => .next s.recordComplete
  | .rejected code s => .next (s.recordReject code)

/-! ## Reset -/

/-- A clock edge with `rst = 1` (R127): every register at its reset value, FRAME_BUF all 0x00,
CAP_MEM unchanged (R129), a command in flight aborted without a trace (R128). What is not state of
the block (build, inputs, turns, the counter of free reads, the last response) is kept. -/
def State.resetEdge (s : State) : State :=
  { State.powerUp s.build with
    mem := s.clearFrame.mem
    inputs := s.inputs
    turns := s.turns
    resp := s.resp
    freeReads := s.freeReads }

end Sys2Proof.Machine
end

