-- ==== Sys2Proof/Machine/Flags.lean ====
section
/-! DEFINITION. The flags of STATUS: the invalidation chain (R79), the precondition of a stage (R80),
the invalidation by an input write (R87) and the layout of the STATUS word (R21). -/

namespace Sys2Proof.Machine

/-- `InvalidateReading()` (R79). -/
def State.invalidateReading (s : State) : State :=
  { s with reading := false, results := Results.zero }

/-- `InvalidateValid()` (R79). -/
def State.invalidateValid (s : State) : State :=
  State.invalidateReading { s with valid := false }

/-- `InvalidateExtracted()` (R79). -/
def State.invalidateExtracted (s : State) : State :=
  State.invalidateValid { s with extracted := false }

/-- `InvalidateFound()` (R79). -/
def State.invalidateFound (s : State) : State :=
  State.invalidateExtracted { s with found := false, matchOffset := notFound }

/-- What an accepted input write does after it has stored its value (R87). -/
def State.inputWritten (s : State) : State :=
  { s with found := false, matchOffset := notFound }

/-- `Need(flag)`: a clear flag ends the command as PRECONDITION with no other write (R80). -/
def need (flag : Bool) (s : State) : Progress :=
  match flag with
  | true => .running s
  | false => .rejected .precondition s

/-- The codes of STATUS.REASON (R73). -/
def Reason.code : Reason → BitVec 4
  | .none => 0
  | .preambleNotFound => 1
  | .insufficientBits => 2
  | .repeatMismatch => 3
  | .illegalCommand => 4
  | .precondition => 5

/-- The STATUS word (R21): ERR_BUSY_WRITE in bit 16, REASON in [11:8], READING, VALID, EXTRACTED,
FOUND, REJECTED, DONE, BUSY in bits 6 to 0, zeros elsewhere. -/
def statusWord (s : State) : Word :=
  0#15 ++ BitVec.ofBool s.errBusyWrite ++ 0#4 ++ s.reason.code ++ 0#1 ++
    BitVec.ofBool s.reading ++ BitVec.ofBool s.valid ++ BitVec.ofBool s.extracted ++
    BitVec.ofBool s.found ++ BitVec.ofBool s.rejected ++ BitVec.ofBool s.done ++
    BitVec.ofBool s.isBusy

/-- The STATUS word read while BUSY: BUSY = 1, DONE = 0, ERR_BUSY_WRITE its current value, any value
in bits 2 to 6 and 8 to 11 (R86), taken from `any`; the reserved bits read 0 (R53). -/
def busyStatusWord (s : State) (any : Word) : Word :=
  0#15 ++ BitVec.ofBool s.errBusyWrite ++ 0#4 ++ any.extractLsb' 8 4 ++ 0#1 ++
    any.extractLsb' 2 5 ++ 0#1 ++ 1#1

end Sys2Proof.Machine
end

