-- ==== Sys2Proof/Machine/Operands.lean ====
section
/-! DEFINITION. What a command reads. A command word has no operand fields: every operand comes from
the registers, CAP_MEM, FRAME_BUF and the build parameters (R69). -/

namespace Sys2Proof.Machine

/-- PREAMBLE, the bytes 0xAA 0xA5 0x98 with the first byte in bits [23:16] (R8). -/
def preamble : BitVec 24 := 0xAAA598

/-- PREAMBLE_BITS (R8). -/
def preambleBits : Nat := 24

/-- FRAME_BITS (R8). -/
def frameBits : Nat := 96

/-- NEED_BITS = 96 x REPEAT_COUNT (R8, R93). -/
def needBits (b : Build) : Nat := frameBits * b.repeatCount

/-- `CAP[i]`, bit i of the capture memory: bit 31 - (i mod 32) of the word i div 32 (R55), that is
the bit i mod 8 of the byte i div 8, counted from the most significant one. -/
def capBit (s : State) (i : Nat) : Bool := (s.mem.read (capBase + i / 8)).getMsbD (i % 8)

/-- `V(i) = CAP[i] XOR CTRL.INVERT` (R57). -/
def view (s : State) (i : Nat) : Bool := xor (capBit s i) s.invert

/-- `{V(k), ..., V(k+n-1)}`, V(k) most significant (R11). -/
def viewBits (s : State) (k : Nat) : (n : Nat) → BitVec n
  | 0 => 0
  | n + 1 => (viewBits s k n).concat (view s (k + n))

/-- `FB[j]` (R43). -/
def frameByte (s : State) (j : Nat) : Byte := s.mem.read (frameBase + j)

end Sys2Proof.Machine
end

