-- ==== Sys2Proof/Machine/Extractor.lean ====
section
/-! DEFINITION. The frame extractor: EXTRACT (42_frame_extractor.md). -/

namespace Sys2Proof.Machine

/-- `Enough(k)`: k + 96 x REPEAT_COUNT <= CAP_LEN, without wrap-around (R93). -/
def enough (s : State) (k : Nat) : Bool := decide (k + needBits s.build ≤ s.capLen.toNat)

/-- The bytes `Pack(k)` puts into FB[0], FB[1], ...: eight view bits each, the earliest most
significant (R94). -/
def packed (s : State) (k : Nat) : List Byte :=
  (List.range (frameLen s.build)).map fun j => viewBits s (k + 8 * j) 8

/-- `ExtractBody()` (R95). A rejection leaves FRAME_BUF untouched (R96). -/
def extractBody (s : State) : Progress :=
  match enough s s.matchOffset.toNat with
  | false => .rejected .insufficientBits s.invalidateExtracted
  | true =>
    .running { s.invalidateExtracted.writeFrame (packed s s.matchOffset.toNat) with
      extracted := true }

/-- EXTRACT (R95), which needs FOUND (R80). -/
def execExtract (s : State) : Host.Outcome State Fault Refusal :=
  ((need s.found s).andThen extractBody).finish

end Sys2Proof.Machine
end

