-- ==== Sys2Proof/Machine/FieldDecoder.lean ====
section
/-! DEFINITION. The bit-packed field decoder: FIELDS (44_bitpacked_field_decoder.md).

The field rules are functions of the bytes `b[0..11]` of copy 0 (R102); only b[3] to b[9] are read. -/

namespace Sys2Proof.Machine

/-- The high nibble of a byte, bits [7:4] (R10). -/
def highNibble (b : Byte) : BitVec 4 := b.extractLsb' 4 4

/-- The low nibble of a byte, bits [3:0] (R10). -/
def lowNibble (b : Byte) : BitVec 4 := b.extractLsb' 0 4

/-- DEVICE_ID (R111). -/
def deviceId (b : Nat → Byte) : BitVec 8 := b 3

/-- BATTERY_NIBBLE (R103). -/
def batteryNibble (b : Nat → Byte) : BitVec 4 := highNibble (b 4)

/-- BATTERY_LOW: an exact match with 0xF (R103). -/
def batteryLow (b : Nat → Byte) : Bool := batteryNibble b == 0xF#4

/-- TEMP_TENTHS, unsigned (R104). -/
def tempTenths (b : Nat → Byte) : BitVec 12 := lowNibble (b 4) ++ b 5

/-- HUMIDITY_PCT, not clamped (R105). -/
def humidityPct (b : Nat → Byte) : BitVec 8 := b 6

/-- RAIN_STEPS (R106). -/
def rainSteps (b : Nat → Byte) : BitVec 12 := b 7 ++ highNibble (b 8)

/-- RAIN_HMM, 75 hundredths of a millimetre a step, in 19 bits (R107). -/
def rainHmm (b : Nat → Byte) : BitVec 19 := (rainSteps b).setWidth 19 * 75#19

/-- WIND_SPEED_KMH, 8 bits in a 12-bit field (R108). -/
def windSpeedKmh (b : Nat → Byte) : BitVec 12 := (lowNibble (b 8) ++ highNibble (b 9)).setWidth 12

/-- DIR_INDEX (R109). -/
def dirIndex (b : Nat → Byte) : BitVec 4 := lowNibble (b 9)

/-- DIR_TENTHS_DEG, 225 tenths of a degree an index, in 12 bits (R113). -/
def dirTenthsDeg (b : Nat → Byte) : BitVec 12 := (dirIndex b).setWidth 12 * 225#12

/-- The DirectionTable (R110): three ASCII characters an entry, the first in bits [23:16] (R41). The
spec takes the entries 1 to 14 and the codes from general knowledge (G2, G3); see
notes/assumptions/18.md. -/
def directionTable : List (BitVec 24) :=
  [0x20204E, 0x4E4E45, 0x204E45, 0x454E45, 0x202045, 0x455345, 0x205345, 0x535345,
   0x202053, 0x535357, 0x205357, 0x575357, 0x202057, 0x574E57, 0x204E57, 0x4E4E57]

/-- `DirectionTable[DIR_INDEX]` (R110). -/
def directionLabel (d : BitVec 4) : BitVec 24 := directionTable.getD d.toNat 0

/-- The eight result registers as `FieldsBody()` writes them (R112). -/
def readingOf (b : Nat → Byte) : Results where
  device := 0#15 ++ BitVec.ofBool (batteryLow b) ++ 0#4 ++ batteryNibble b ++ deviceId b
  temperature := (tempTenths b).setWidth 32
  humidity := (humidityPct b).setWidth 32
  rain := (rainSteps b).setWidth 32
  rainVolume := (rainHmm b).setWidth 32
  windSpeed := (windSpeedKmh b).setWidth 32
  windDir := 0#4 ++ dirTenthsDeg b ++ 0#12 ++ dirIndex b
  windLabel := (directionLabel (dirIndex b)).setWidth 32

/-- `FieldsBody()` (R112). It never rejects. -/
def fieldsBody (s : State) : Progress :=
  .running { s.invalidateReading with results := readingOf (frameByte s), reading := true }

/-- FIELDS (R112), which needs VALID (R80). -/
def execFields (s : State) : Host.Outcome State Fault Refusal :=
  ((need s.valid s).andThen fieldsBody).finish

end Sys2Proof.Machine
end

