-- ==== Sys2Proof/Machine/Locator.lean ====
section
/-! DEFINITION. The preamble detector: LOCATE (41_preamble_detector.md). -/

namespace Sys2Proof.Machine

/-- `Window(k)`, 24 bits of the view, V(k) most significant (R90). -/
def window (s : State) (k : Nat) : BitVec 24 := viewBits s k 24

/-- The loop of `Locate` over `n` offsets from `k` on, ascending (R90). -/
def locateFrom (s : State) : (n k : Nat) → Option Nat
  | 0, _ => none
  | n + 1, k => if window s k = preamble then some k else locateFrom s n (k + 1)

/-- `Locate(len, start)` (R90). The offsets tried are start, ..., len - 24, none where start is past
len - 24, and no bit is read where len < 24. -/
def locate (s : State) (len start : Nat) : Option Nat :=
  if len < preambleBits then none else locateFrom s (len - preambleBits + 1 - start) start

/-- `LocateBody()` (R90). The search reads only the capture, CTRL.INVERT and its two arguments, which
the invalidation does not write. -/
def locateBody (s : State) : Progress :=
  match locate s s.capLen.toNat s.startOffset.toNat with
  | none => .rejected .preambleNotFound s.invalidateFound
  | some k =>
    .running { s.invalidateFound with found := true, matchOffset := BitVec.ofNat 16 k }

/-- LOCATE (R90). It has no precondition. -/
def execLocate (s : State) : Host.Outcome State Fault Refusal := (locateBody s).finish

end Sys2Proof.Machine
end

