-- ==== Sys2Proof/Machine/Validator.lean ====
section
/-! DEFINITION. The repeat validator: VALIDATE (43_repeat_validator.md). -/

namespace Sys2Proof.Machine

/-- P_END: byte 11 is compared only where COMPARE_PAUSE = 1 (R98). -/
def compareEnd (b : Build) : Nat := if b.comparePause then 12 else 11

/-- `FB[12r + p] == FB[p]` for every compared position p of copy r (R98). -/
def copyAgrees (s : State) (r : Nat) : Bool :=
  (List.range (compareEnd s.build)).all fun p =>
    frameByte s (frameBytes * r + p) == frameByte s p

/-- `Repeats_agree()`: every copy r in 1, ..., REPEAT_COUNT - 1 agrees with copy 0 (R98, R99). -/
def repeatsAgree (s : State) : Bool :=
  (List.range (s.build.repeatCount - 1)).all fun r => copyAgrees s (r + 1)

/-- `ValidateBody()` (R100). -/
def validateBody (s : State) : Progress :=
  match repeatsAgree s with
  | false => .rejected .repeatMismatch s.invalidateValid
  | true => .running { s.invalidateValid with valid := true }

/-- VALIDATE (R100), which needs EXTRACTED (R80). -/
def execValidate (s : State) : Host.Outcome State Fault Refusal :=
  ((need s.extracted s).andThen validateBody).finish

end Sys2Proof.Machine
end

