-- ==== Sys2Proof/Machine/Sequencer.lean ====
section
/-! DEFINITION. The commands of the sequencer: NOP, DECODE, CLEAR and the illegal words
(40_command_sequencer.md). -/

namespace Sys2Proof.Machine

/-- NOP: `skip` at the issue, no engine step, no flag written (R72, R77, R82). -/
def execNop (s : State) : Host.Outcome State Fault Refusal := .next s

/-- DECODE: the four stages in pipeline order, ended by the first rejection (R81). -/
def execDecode (s : State) : Host.Outcome State Fault Refusal :=
  ((((Progress.running s.invalidateFound).andThen locateBody).andThen extractBody).andThen
    validateBody).andThen fieldsBody |>.finish

/-- CLEAR (R83). -/
def execClear (s : State) : Host.Outcome State Fault Refusal :=
  (Progress.running s.invalidateFound.clearFrame).finish

/-- The reserved word 0x00000007: `reject(ILLEGAL_COMMAND)`, no other write (R84). -/
def execIllegal7 (s : State) : Host.Outcome State Fault Refusal :=
  (Progress.rejected .illegalCommand s).finish

/-- A word with a bit of [31:3] set: `reject(ILLEGAL_COMMAND)`, no other write (R84). -/
def execIllegalMbz (s : State) : Host.Outcome State Fault Refusal :=
  (Progress.rejected .illegalCommand s).finish

end Sys2Proof.Machine
end

