-- ==== Sys2Proof/Machine/Dispatch.lean ====
section
/-! DEFINITION. The meaning of every command: one arm per constructor of `Instr`. -/

namespace Sys2Proof.Machine

def exec (i : Instr) (s : State) : Host.Outcome State Fault Refusal :=
  match i with
  | .nop => Sys2Proof.Machine.execNop s
  | .decode => Sys2Proof.Machine.execDecode s
  | .locate => Sys2Proof.Machine.execLocate s
  | .extract => Sys2Proof.Machine.execExtract s
  | .validate => Sys2Proof.Machine.execValidate s
  | .fields => Sys2Proof.Machine.execFields s
  | .clear => Sys2Proof.Machine.execClear s
  | .illegal7 => Sys2Proof.Machine.execIllegal7 s
  | .illegalMbz _ _ => Sys2Proof.Machine.execIllegalMbz s

end Sys2Proof.Machine
end

