-- ==== Sys2Proof/Decode.lean ====
section
/-! DEFINITION. Decoding and encoding of command words (30_encoding.md R68 to R71).

The decoder is total: every one of the 2^32 words is some row (R70), so it never refuses a word. -/

namespace Sys2Proof

/-- Field OP, bits [2:0] of a command word (R69). -/
def opField (w : Word) : BitVec 3 := w.extractLsb' 0 3

/-- Field MBZ, bits [31:3] of a command word (R69). -/
def mbzField (w : Word) : BitVec 29 := w.extractLsb' 3 29

/-- The eight rows whose MBZ field is zero, by OP (R70). -/
def decodeOp (op : BitVec 3) : Instr :=
  match op.toNat with
  | 0 => .nop
  | 1 => .decode
  | 2 => .locate
  | 3 => .extract
  | 4 => .validate
  | 5 => .fields
  | 6 => .clear
  | _ => .illegal7

/-- `decode_cmd` of R70. The MBZ field is looked at before OP. -/
def decode (w : Word) : Instr :=
  if mbzField w = 0 then decodeOp (opField w) else .illegalMbz (mbzField w) (opField w)

/-- The word of a command, from the rows of R70. -/
def encode : Instr → Word
  | .nop => 0x00000000#32
  | .decode => 0x00000001#32
  | .locate => 0x00000002#32
  | .extract => 0x00000003#32
  | .validate => 0x00000004#32
  | .fields => 0x00000005#32
  | .clear => 0x00000006#32
  | .illegal7 => 0x00000007#32
  | .illegalMbz mbz op => mbz ++ op

/-- The command word whose low `nbits` bits are those of `w` and whose other bits are 0, where
there is one: a command is exactly 32 bits (R68), so a row of more bits has none. -/
def tableWord (nbits w : Nat) : Option Word :=
  if nbits ≤ 32 then some (BitVec.ofNat 32 (w % 2 ^ nbits)) else none

/-- The instruction the decoder reads from a table row's word. -/
def decodeTableWord (nbits w : Nat) : Option Instr :=
  (tableWord nbits w).map decode

end Sys2Proof
end

