-- ==== Sys2Proof/Machine/Bus.lean ====
section
/-! DEFINITION. The bus target: the register map (R16), reads and writes of the registers
(10_state.md), the bus rules (20_memory.md) and host access while a command runs (R85, R86). -/

namespace Sys2Proof.Machine

/-- What stands at a word of the register window (R16). -/
inductive Reg where
  | config
  | capSize
  | ctrl
  | cmd
  | status
  | capLen
  | startOffset
  | matchOffset
  | device
  | temperature
  | humidity
  | rain
  | rainVolume
  | windSpeed
  | windDir
  | windLabel
  /-- Word slot `w` of FRAME_BUF (R43, R56). -/
  | frameBuf (w : Nat)
  /-- Word slot `w` of the CAP_MEM window (R44, R55). -/
  | capMem (w : Nat)
  /-- Reserved space (R53). -/
  | reserved
  deriving DecidableEq, Repr

/-- The registers below 0x040, by word (R16). -/
def lowReg (w : Nat) : Reg :=
  match w with
  | 0 => .config
  | 1 => .capSize
  | 2 => .ctrl
  | 3 => .cmd
  | 4 => .status
  | 5 => .capLen
  | 6 => .startOffset
  | 7 => .matchOffset
  | 8 => .device
  | 9 => .temperature
  | 10 => .humidity
  | 11 => .rain
  | 12 => .rainVolume
  | 13 => .windSpeed
  | 14 => .windDir
  | 15 => .windLabel
  | _ => .reserved

/-- The register map of R16. -/
def regAt (off : Offset) : Reg :=
  if off.toNat < 0x40 then lowReg (off.toNat / 4)
  else if off.toNat < 0x100 then .reserved
  else if off.toNat < 0x140 then .frameBuf ((off.toNat - 0x100) / 4)
  else if off.toNat < 0x1000 then .reserved
  else .capMem ((off.toNat - 0x1000) / 4)

/-- The offset of CMD (R16, R20). -/
def cmdOffset : Offset := 0x00C

/-- The offset of STATUS (R16, R21). -/
def statusOffset : Offset := 0x010

/-- The only legal access is a whole aligned word (R51). -/
def legal : BusOp → Bool
  | .read off => off.extractLsb' 0 2 == 0
  | .write off _ be => off.extractLsb' 0 2 == 0 && be == 0b1111

/-! ## Reads -/

/-- The CONFIG word (R17). -/
def configWord (b : Build) : Word :=
  0#16 ++ BitVec.ofNat 8 frameBytes ++ 0#3 ++ BitVec.ofBool b.comparePause ++
    BitVec.ofNat 4 b.repeatCount

/-- The CAP_SIZE word (R18). -/
def capSizeWord (b : Build) : Word := 0#16 ++ BitVec.ofNat 16 b.capBitsMax

/-- `FrameWordRead(w)`; a slot at or above 3 x REPEAT_COUNT is reserved (R53, R56). -/
def frameWordRead (s : State) (w : Nat) : Word :=
  if w < 3 * s.build.repeatCount then s.mem.readWord (frameBase + 4 * w) else 0

/-- `CapWordRead(w)`, the stored bits, never the view; a slot at or above CAP_BITS_MAX / 32 is
reserved (R53, R55). -/
def capWordRead (s : State) (w : Nat) : Word :=
  if w < s.build.capBitsMax / 32 then s.mem.readWord (capBase + 4 * w) else 0

/-- The value of a register as the host reads it while the engine is IDLE. -/
def regValue (s : State) : Reg → Word
  | .config => configWord s.build
  | .capSize => capSizeWord s.build
  | .ctrl => 0#31 ++ BitVec.ofBool s.invert
  | .cmd => 0
  | .status => statusWord s
  | .capLen => s.capLen.setWidth 32
  | .startOffset => s.startOffset.setWidth 32
  | .matchOffset => s.matchOffset.setWidth 32
  | .device => s.results.device
  | .temperature => s.results.temperature
  | .humidity => s.results.humidity
  | .rain => s.results.rain
  | .rainVolume => s.results.rainVolume
  | .windSpeed => s.results.windSpeed
  | .windDir => s.results.windDir
  | .windLabel => s.results.windLabel
  | .frameBuf w => frameWordRead s w
  | .capMem w => capWordRead s w
  | .reserved => 0

/-- Whether a read while BUSY returns any value, in the whole word or, for STATUS, in some bits
(R86). A FRAME_BUF slot at or above 3 x REPEAT_COUNT is reserved space, which reads 0 as ever. -/
def openWhileBusy (b : Build) : Reg → Bool
  | .config => false
  | .capSize => false
  | .ctrl => false
  | .cmd => false
  | .status => true
  | .capLen => false
  | .startOffset => false
  | .matchOffset => true
  | .device => true
  | .temperature => true
  | .humidity => true
  | .rain => true
  | .rainVolume => true
  | .windSpeed => true
  | .windDir => true
  | .windLabel => true
  | .frameBuf w => decide (w < 3 * b.repeatCount)
  | .capMem _ => false
  | .reserved => false

/-- What an open read while BUSY returns, `any` being its free value (R86). -/
def busyValue (s : State) (r : Reg) (any : Word) : Word :=
  match r with
  | .status => busyStatusWord s any
  | _ => any

/-- A legal read of `r`: no side effect (R59), an independent free value for every open read while
BUSY (R86, U2, U3). DESIGN CHOICE, notes/assumptions/24.md: the value is that of the state's own count
of open reads, so two instances or two runs with equal counts draw the same one. -/
def readReg (s : State) (r : Reg) : State :=
  if s.isBusy && openWhileBusy s.build r then
    State.answer { s with freeReads := s.freeReads + 1 }
      (busyValue s r (Config.busyRead s.freeReads)) false
  else s.answer (regValue s r) false

/-! ## Writes -/

/-- CAP_LEN is written with min(w[15:0], CAP_BITS_MAX) (R31). -/
def saturate (b : Build) (v : BitOffset) : BitOffset :=
  if v.toNat ≤ b.capBitsMax then v else BitVec.ofNat 16 b.capBitsMax

/-- `CapWordWrite(w, data)`; a slot at or above CAP_BITS_MAX / 32 is reserved (R53, R55). -/
def capWordWrite (s : State) (w : Nat) (data : Word) : State :=
  if w < s.build.capBitsMax / 32 then { s with mem := s.mem.writeWord (capBase + 4 * w) data }
  else s

/-- `Issue(w)` while IDLE (R77). A NOP is skipped, so it runs here and never becomes PEND (R82). -/
def issue (s : State) (w : Word) : Action :=
  match decode w with
  | .nop => .run .nop s
  | _ => .done (s.beginCommand w)

/-- Whether a write to `r` is dropped while BUSY: CTRL, CMD, CAP_LEN, START_OFFSET and any offset of
the CAP_MEM window (R85). -/
def droppedWhileBusy : Reg → Bool
  | .ctrl => true
  | .cmd => true
  | .capLen => true
  | .startOffset => true
  | .capMem _ => true
  | .config => false
  | .capSize => false
  | .status => false
  | .matchOffset => false
  | .device => false
  | .temperature => false
  | .humidity => false
  | .rain => false
  | .rainVolume => false
  | .windSpeed => false
  | .windDir => false
  | .windLabel => false
  | .frameBuf _ => false
  | .reserved => false

/-- The register's own rule for a legal write: R19, R20, R30, R31, R32, R55; writes to read-only
registers (R54) and to reserved space (R53) are ignored; input writes invalidate FOUND (R87). -/
def writeRule (s : State) (r : Reg) (data : Word) : Action :=
  match r with
  | .ctrl => .done (State.inputWritten { s with invert := data.getLsbD 0 })
  | .cmd => issue s data
  | .status => .done { s with errBusyWrite := s.errBusyWrite && !data.getLsbD 16 }
  | .capLen =>
    .done (State.inputWritten { s with capLen := saturate s.build (data.extractLsb' 0 16) })
  | .startOffset => .done (State.inputWritten { s with startOffset := data.extractLsb' 0 16 })
  | .capMem w => .done (capWordWrite s w data).inputWritten
  | .config => .done s
  | .capSize => .done s
  | .matchOffset => .done s
  | .device => .done s
  | .temperature => .done s
  | .humidity => .done s
  | .rain => .done s
  | .rainVolume => .done s
  | .windSpeed => .done s
  | .windDir => .done s
  | .windLabel => .done s
  | .frameBuf _ => .done s
  | .reserved => .done s

/-- A legal write to `r`: busy drop first, then the register's own rule (R85, R119). -/
def writeReg (s : State) (r : Reg) (data : Word) : Action :=
  if s.isBusy && droppedWhileBusy r then .done s.busyDrop else writeRule s r data

/-! ## Transactions -/

/-- A legal transaction. A write is answered with rdata = 0 (R50). -/
def perform (s : State) : BusOp → Action
  | .read off => .done (readReg s (regAt off))
  | .write off data _ => writeReg (s.answer 0 false) (regAt off) data

/-- A host transaction, checked in the order of R119: legality, busy drop, the register's own rule. An
illegal access has no effect and is answered with err = 1 and rdata = 0 (R52, R117). -/
def transaction (s : State) (op : BusOp) : Action :=
  if legal op then perform s op else .done (s.answer 0 true)

end Sys2Proof.Machine
end

