-- ==== Sys2Proof/Machine/Schedule.lean ====
section
/-! DEFINITION. Who moves next (R61, R88, R119), what the outside world's moves do (R75, R127), and
how a command is placed before the engine.

The block sees one totally ordered sequence of steps (R61). While IDLE only the outside world can
move. While BUSY either it or the engine can: `turns` says which, and when it is used up, or when
nothing is presented, the engine completes its command, so that it moves after finitely many host
steps (R88). -/

namespace Sys2Proof.Machine

/-- One move of the outside world, already taken off `inputs`, `rest` being what is left. WAIT reads
STATUS and reads it again while BUSY reads 1 (R75). A transaction presented in a cycle with rst = 1
is not performed and is answered with rdata = 0, err = 0 (R127). -/
def applyStimulus (s : State) (st : Stimulus) (rest : List Stimulus) : Action :=
  match st with
  | .bus op => transaction { s with inputs := rest } op
  | .wait =>
    transaction { s with inputs := if s.isBusy then st :: rest else rest } (.read statusOffset)
  | .reset none => .done { s.resetEdge with inputs := rest }
  | .reset (some _) => .done (State.answer { s.resetEdge with inputs := rest } 0 false)

/-- The move of the outside world, if it has one. -/
def hostMove (s : State) : Action :=
  match s.inputs with
  | [] => .done s
  | st :: rest => applyStimulus s st rest

/-- Whether the outside world moves next while the engine is BUSY. -/
def hostTurn (s : State) : Bool := s.turns.head? == some .host && !s.inputs.isEmpty

/-- The next step. Each step taken while BUSY uses up one turn. The engine's one step evaluates
`decode_cmd(PEND)` (R78). -/
def nextAction (s : State) : Action :=
  match s.eng with
  | .idle => hostMove s
  | .busy w =>
    if hostTurn s then hostMove { s with turns := s.turns.tail }
    else .run (decode w) { s with turns := s.turns.tail }

/-- `s` with the command word `w` placed so that the very next step runs it. A NOP runs at its issue
(R77, R82), so the host presents it while the engine is IDLE. Every other word is PEND with the
engine's turn next (R46, R78). -/
def placeCommand (s : State) (w : Word) : State :=
  match decode w with
  | .nop => { s with eng := .idle, inputs := .bus (.write cmdOffset w 0b1111) :: s.inputs }
  | _ => { s with eng := .busy w, turns := .engine :: s.turns }

end Sys2Proof.Machine
end

