-- ==== Sys2Proof/Machine/Step.lean ====
section
/-! DEFINITION. One step of the machine: one host transaction, one reset edge, one completion of a
command, or, where the engine is IDLE and nothing is presented, nothing (R61). -/

namespace Sys2Proof.Machine

/-- One step. -/
def step (s : State) : Host.Outcome State Fault Refusal :=
  match nextAction s with
  | .run i t => exec i t
  | .done t => .next t

/-- `s` with the instruction of a table row's word placed where the next step takes it. A row of more
than 32 bits has no word (R68) and changes nothing. -/
def State.withFetchWord (s : State) (nbits w : Nat) : State :=
  match tableWord nbits w with
  | none => s
  | some c => placeCommand s c

end Sys2Proof.Machine
end

