-- ==== Sys2Proof/Machine/Instances.lean ====
section
/-! DEFINITION. A system of several instances (R124): each has its own copy of every register and
memory, and they share nothing but constants. -/

namespace Sys2Proof.Machine

/-- A step of the instance `n`. The other instances do not move. DESIGN CHOICE,
notes/assumptions/24.md: the instances share the constants `Config.capInit` and `Config.busyRead`, so
their unwritten capture bytes and their open reads of equal count have equal values, which R124 leaves
unrelated and no claim may use. -/
def stepInstance (system : List State) (n : Nat) : Host.Outcome (List State) Fault Refusal :=
  match system[n]? with
  | none => .next system
  | some s =>
    match step s with
    | .next t => .next (system.set n t)
    | .fault r => .fault r
    | .refused r => .refused r

end Sys2Proof.Machine
end

