-- ==== Sys2Proof/Machine/HostProgram.lean ====
section
/-! DEFINITION. Host programs: the lines of the host assembly and what they present to the block
(R74, R75), and the discipline of a well-formed program (R76). -/

namespace Sys2Proof.Machine

/-- The base instructions of R74 and the pseudo-instructions of R75. Their text form is read in
Machine/Assembly.lean. -/
inductive HostLine where
  /-- `WR off, data`. -/
  | wr (off : Offset) (data : Word)
  /-- `WRB off, data, be`. -/
  | wrb (off : Offset) (data : Word) (be : BitVec 4)
  /-- `RD off`. -/
  | rd (off : Offset)
  /-- `CMD m`, or `CMD w` with a raw word. -/
  | cmd (w : Word)
  /-- `WAIT`. -/
  | wait
  /-- `RUN m`. -/
  | run (w : Word)
  /-- `LOADCAP w0, ..., wn`. -/
  | loadcap (ws : List Word)
  /-- `SETLEN n`. -/
  | setlen (n : Word)
  /-- `SETSTART n`. -/
  | setstart (n : Word)
  /-- `INVERT b`. -/
  | invert (b : Bool)
  /-- `CLRERR`. -/
  | clrerr
  deriving DecidableEq, Repr

/-- `WR off, data` (R74). -/
def fullWrite (off : Offset) (data : Word) : Stimulus := .bus (.write off data 0b1111)

/-- The writes of `LOADCAP`, one word after the other from `off` on (R75). Up to 1024 words from 0x1000
on stay in the window. DESIGN CHOICE, notes/assumptions/23.md: R75 is silent on more, the offset has 13
bits (R50), and in a list of more words it wraps to 0x0000; the assembler refuses such a line. -/
def loadWords : Offset → List Word → List Stimulus
  | _, [] => []
  | off, w :: ws => fullWrite off w :: loadWords (off + 4) ws

/-- What a line presents to the block (R74, R75). -/
def HostLine.expand : HostLine → List Stimulus
  | .wr off data => [fullWrite off data]
  | .wrb off data be => [.bus (.write off data be)]
  | .rd off => [.bus (.read off)]
  | .cmd w => [fullWrite cmdOffset w]
  | .wait => [.wait]
  | .run w => [fullWrite cmdOffset w, .wait]
  | .loadcap ws => loadWords 0x1000 ws
  | .setlen n => [fullWrite 0x014 n]
  | .setstart n => [fullWrite 0x018 n]
  | .invert b => [fullWrite 0x008 (0#31 ++ BitVec.ofBool b)]
  | .clrerr => [fullWrite statusOffset 0x00010000]

/-- The stimuli of a host program. -/
def hostProgram (ls : List HostLine) : List Stimulus := ls.flatMap HostLine.expand

/-- The columns (write, off, data, be) of R74; for a read the last two are not used, and are 0
here. -/
def encodeOp : BusOp → Bool × Offset × Word × BitVec 4
  | .read off => (false, off, 0, 0)
  | .write off data be => (true, off, data, be)

/-- Whether a transaction issues a command that leaves the engine BUSY: a legal write to CMD of any
word but NOP (R77). -/
def issuesCommand : BusOp → Bool
  | .read _ => false
  | .write off data be => legal (.write off data be) && regAt off == .cmd && data != 0

/-- Whether a transaction is one a well-formed program presents only when the engine is IDLE: a
command or an input write, or a read of a result (R76, R131, R132). A read of STATUS is the loop
WAIT itself. -/
def needsIdle : BusOp → Bool
  | .read off =>
    legal (.read off) &&
      match regAt off with
      | .matchOffset => true
      | .device => true
      | .temperature => true
      | .humidity => true
      | .rain => true
      | .rainVolume => true
      | .windSpeed => true
      | .windDir => true
      | .windLabel => true
      | .frameBuf _ => true
      | .config => false
      | .capSize => false
      | .ctrl => false
      | .cmd => false
      | .status => false
      | .capLen => false
      | .startOffset => false
      | .capMem _ => false
      | .reserved => false
  | .write off data be => legal (.write off data be) && droppedWhileBusy (regAt off)

/-- Whether the rest of a host program keeps the discipline of R76: after a command it waits before
the next command, input write or read of a result. `pending` says that a command may still be
running. -/
def paced (pending : Bool) : List Stimulus → Bool
  | [] => true
  | .wait :: rest => paced false rest
  | .reset _ :: rest => paced false rest
  | .bus op :: rest => !(pending && needsIdle op) && paced (pending || issuesCommand op) rest

end Sys2Proof.Machine
end

