-- ==== Sys2Proof/Safety.lean ====
section
/-! DEFINITION. What claims about the machine speak of: where the preamble stands in the view, the
invariants of R89, which flags a stage may write, and a host that waits (R76). -/

namespace Sys2Proof.Machine

/-- The view holds PREAMBLE at `k`, bit by bit: `V(k+j) = PREAMBLE[23-j]` (R90). -/
def PreambleAt (s : State) (k : Nat) : Prop :=
  ∀ j < 24, view s (k + j) = preamble.getMsbD j

/-- `k` is the offset LOCATE must find: the first one from START_OFFSET on whose 24 bits lie below
CAP_LEN and read PREAMBLE (R90). -/
structure FirstMatch (s : State) (k : Nat) : Prop where
  start_le : s.startOffset.toNat ≤ k
  fits : k + 24 ≤ s.capLen.toNat
  here : PreambleAt s k
  first : ∀ j, s.startOffset.toNat ≤ j → j < k → ¬ PreambleAt s j

/-- No offset from START_OFFSET on has its 24 bits below CAP_LEN and reads PREAMBLE (R90). -/
def NoMatch (s : State) : Prop :=
  ∀ k, s.startOffset.toNat ≤ k → k + 24 ≤ s.capLen.toNat → ¬ PreambleAt s k

/-- The copies in the frame buffer agree in every compared byte (R98). -/
def CopiesAgree (s : State) : Prop :=
  ∀ r p, 1 ≤ r → r < s.build.repeatCount → p < (if s.build.comparePause then 12 else 11) →
    frameByte s (12 * r + p) = frameByte s p

/-- FRAME_BUF holds the view bits from `k` on: `FB[j][7-b] = V(k + 8j + b)` (R94). -/
def FrameHolds (s : State) (k : Nat) : Prop :=
  ∀ j b, j < 12 * s.build.repeatCount → b < 8 →
    (frameByte s j).getMsbD b = view s (k + 8 * j + b)

/-- The invariants of the block: those of R89, and those the spec gives beside them. They hold in
IDLE and BUSY alike, where not said otherwise: while BUSY nothing a command reads or writes changes
(R85). -/
structure Inv (s : State) : Prop where
  /-- The build is one this hardware has (R5, R7). -/
  legalBuild : s.build.Legal
  /-- The memories are in canonical form. -/
  memWf : s.mem.wf
  /-- Only bytes of FRAME_BUF and of CAP_MEM are listed (R43, R44). -/
  memRange : ∀ c ∈ s.mem,
    (frameBase ≤ c.1 ∧ c.1 < frameBase + 12 * s.build.repeatCount) ∨
      (capBase ≤ c.1 ∧ c.1 < capBase + s.build.capBitsMax / 8)
  /-- CAP_LEN never exceeds the capacity (R31, D13). -/
  capLenLe : s.capLen.toNat ≤ s.build.capBitsMax
  /-- A pending command is no NOP, and DONE is 0 while it is pending (R77, R86). -/
  pending : ∀ w, s.eng = .busy w → decode w ≠ .nop ∧ s.done = false
  /-- R89 item 1. -/
  foundIff : s.found = false ↔ s.matchOffset = 0xFFFF
  /-- R89 item 2. -/
  foundMatch : s.found = true → FirstMatch s s.matchOffset.toNat
  /-- R89 item 3. -/
  extractedPreamble : s.extracted = true →
    frameByte s 0 = 0xAA ∧ frameByte s 1 = 0xA5 ∧ frameByte s 2 = 0x98
  /-- R89 item 4. -/
  validAgrees : s.valid = true → s.extracted = true ∧ CopiesAgree s
  /-- R89 item 5. -/
  readingFields : s.reading = true → s.valid = true ∧ s.results = readingOf (frameByte s)
  /-- R89 item 6, R42. -/
  noReading : s.reading = false → s.results = Results.zero
  /-- R89 item 7, R24. -/
  rejectedIff : s.rejected = true ↔ s.reason ≠ .none
  /-- R89 item 7: while IDLE, DONE = 0 only where no command has completed since reset. -/
  notDone : s.eng = .idle → s.done = false → s.rejected = false ∧ s.reason = .none

/-- What a stage or CLEAR never writes: the build, the input registers, ERR_BUSY_WRITE, CAP_MEM, every
byte of memory outside FRAME_BUF, and what is not state of the block (R65, R83). -/
structure InputsKept (s t : State) : Prop where
  build : t.build = s.build
  invert : t.invert = s.invert
  capLen : t.capLen = s.capLen
  startOffset : t.startOffset = s.startOffset
  errBusyWrite : t.errBusyWrite = s.errBusyWrite
  inputs : t.inputs = s.inputs
  turns : t.turns = s.turns
  resp : t.resp = s.resp
  freeReads : t.freeReads = s.freeReads
  capMem : ∀ a, capBase ≤ a → t.mem.read a = s.mem.read a
  otherMem : ∀ a, a < frameBase ∨ frameBase + 12 * s.build.repeatCount ≤ a →
    t.mem.read a = s.mem.read a

/-- Two blocks show a host the same outcome: the same flags, REASON, MATCH_OFFSET, result registers
and frame buffer, and the same engine. -/
structure SameOutcome (s t : State) : Prop where
  eng : t.eng = s.eng
  done : t.done = s.done
  rejected : t.rejected = s.rejected
  reason : t.reason = s.reason
  found : t.found = s.found
  extracted : t.extracted = s.extracted
  valid : t.valid = s.valid
  reading : t.reading = s.reading
  matchOffset : t.matchOffset = s.matchOffset
  results : t.results = s.results
  frame : ∀ j < 12 * s.build.repeatCount, frameByte t j = frameByte s j

/-- Running the stage commands one by one, as a host does by hand, and stopping at the first
rejection (R81, R132). -/
def runStages : List Instr → State → Host.Outcome State Fault Refusal
  | [], s => .next s
  | i :: is, s =>
    match exec i s with
    | .next t => if t.rejected then .next t else runStages is t
    | .fault r => .fault r
    | .refused r => .refused r

/-- The outside world makes the next move, `st`: the engine is IDLE, or it is BUSY and the scheduler
gives the host the turn (R119). -/
def HostMoves (s : State) (st : Stimulus) (rest : List Stimulus) : Prop :=
  s.inputs = st :: rest ∧ (s.eng = .idle ∨ s.turns.head? = some .host)

/-- `s` with that move taken off `inputs`, and the turn used up where the engine is BUSY. -/
def afterMove (s : State) (rest : List Stimulus) : State :=
  { s with
    inputs := rest
    turns := match s.eng with
      | .idle => s.turns
      | .busy _ => s.turns.tail }

/-- `n` steps lead from `s` to `u`, and the engine is BUSY at every one of them, so that no command
completes on the way. -/
def BusyPath : Nat → State → State → Prop
  | 0, s, u => s = u
  | n + 1, s, u =>
    s.isBusy = true ∧ ∃ t, step s = .next t ∧ t.isBusy = true ∧ BusyPath n t u

/-- The host waits as R76 asks, from here on, and no write has been lost. -/
def Paced (s : State) : Prop :=
  paced s.isBusy s.inputs = true ∧ s.errBusyWrite = false

end Sys2Proof.Machine
end

