-- ==== Sys2Proof/WellFormed.lean ====
section
/-! DEFINITION. Which terms of `Instr` stand for a row of the opcode table. -/

namespace Sys2Proof

/-- The default row applies only "when any of" the bits [31:3] is 1 (R69, R71 and the row's field
`m` in spec/opcode_table.json). Every other row is one exact word and needs no check. -/
def Instr.wellFormed : Instr → Bool
  | .nop => true
  | .decode => true
  | .locate => true
  | .extract => true
  | .validate => true
  | .fields => true
  | .clear => true
  | .illegal7 => true
  | .illegalMbz mbz _ => mbz != 0

end Sys2Proof
end

