-- ==== Sys2Proof/Certificates/Slice0/Obligations.lean ====
section
/-! DEFINITION. The statements for the provers. Each docstring names the rule it formalises. They
quantify over every build (`State.build`), every schedule (`State.turns`), every contents of the
capture memory (`Config.capInit` has no body) and every value read while BUSY (`Config.busyRead` has
no body). -/

open Sys2Proof Sys2Proof.Machine

/-! ## Encoding -/

/-- Decoding an encoded well-formed command gives it back, with every value of both fields of the
default row (R69, R70). -/
def Obligations.DecodeEncodeRoundTrip : Prop :=
  ∀ i : Instr, i.wellFormed = true → decode (encode i) = i

/-- Every one of the 2^32 words is exactly one command: what it decodes to is well formed and encodes
back to that word, and two different words are different commands (R70). -/
def Obligations.EveryWordIsOneCommand : Prop :=
  ∀ w : Word, (decode w).wellFormed = true ∧ encode (decode w) = w ∧
    ∀ v : Word, decode v = decode w → v = w

/-- The words of the opcode map of R70, written out, with the two stray-bit words of R84. -/
def Obligations.OpcodeMapWords : Prop :=
  decode 0b00000000000000000000000000000000#32 = .nop ∧
  decode 0b00000000000000000000000000000001#32 = .decode ∧
  decode 0b00000000000000000000000000000010#32 = .locate ∧
  decode 0b00000000000000000000000000000011#32 = .extract ∧
  decode 0b00000000000000000000000000000100#32 = .validate ∧
  decode 0b00000000000000000000000000000101#32 = .fields ∧
  decode 0b00000000000000000000000000000110#32 = .clear ∧
  decode 0b00000000000000000000000000000111#32 = .illegal7 ∧
  decode 0b10000000000000000000000000000001#32 = .illegalMbz 0x10000000 1 ∧
  decode 0b00000000000000000000000000001000#32 = .illegalMbz 1 0

/-- The word 7 and every word with a nonzero bit in [31:3] end in ILLEGAL_COMMAND and change no other
state (R71, R84). -/
def Obligations.IllegalWordsChangeOnlyTheRecord : Prop :=
  ∀ (w : Word) (s : State), (w = 7 ∨ 8 ≤ w.toNat) →
    exec (decode w) s = .next { s with
      rejected := true, reason := .illegalCommand, done := true, eng := .idle }

/-- ILLEGAL_7 and ILLEGAL_MBZ, with every value of its fields, complete in every state (R84). -/
def Obligations.IllegalCommandsComplete : Prop :=
  ∀ (m : BitVec 29) (o : BitVec 3) (s : State),
    exec .illegal7 s = .next { s with
      rejected := true, reason := .illegalCommand, done := true, eng := .idle } ∧
    exec (.illegalMbz m o) s = .next { s with
      rejected := true, reason := .illegalCommand, done := true, eng := .idle }

/-! ## Steps -/

/-- A step runs the decoded command: the pending one when it is the engine's turn or nothing is
presented, which uses up one turn (R78); and NOP at its issue, once the port has answered the write
(R77, R82). -/
def Obligations.StepRunsTheDecodedCommand : Prop :=
  (∀ (s : State) (w : Word), s.eng = .busy w →
    (s.turns.head? ≠ some .host ∨ s.inputs = []) →
    step s = exec (decode w) { s with turns := s.turns.tail }) ∧
  (∀ (s : State) (rest : List Stimulus), s.eng = .idle →
    s.inputs = .bus (.write 0x00C 0 0b1111) :: rest →
    step s = exec .nop { s with inputs := rest, resp := some ⟨0, false⟩ })

/-- A command word placed by `withFetchWord` is what the very next step runs (entry 8 of the log). -/
def Obligations.PlacedWordRunsNext : Prop :=
  ∀ (s : State) (w : Word),
    (w ≠ 0 → step (s.withFetchWord 32 w.toNat) = exec (decode w) { s with eng := .busy w }) ∧
    (w = 0 → step (s.withFetchWord 32 w.toNat) =
      exec .nop { s with eng := .idle, resp := some ⟨0, false⟩ })

/-- R72: NOP changes no state at all, and no other word is a no-op: it ends with the engine IDLE and
DONE set, where it found the engine BUSY and DONE clear. -/
def Obligations.NopChangesNothing : Prop :=
  decode 0 = .nop ∧ (∀ s : State, exec .nop s = .next s) ∧
  ∀ (s : State) (w : Word), w ≠ 0 → s.eng = .busy w → s.done = false →
    ∃ t, exec (decode w) s = .next t ∧ t ≠ s ∧ t.eng = .idle ∧ t.done = true

/-- Every step and every command answers a next state: no rule stops the block (R126, and R88 for the
commands). -/
def Obligations.NothingStopsTheBlock : Prop :=
  (∀ s : State, ∃ t, step s = .next t) ∧ ∀ (i : Instr) (s : State), ∃ t, exec i s = .next t

/-- R77: a legal write to CMD while IDLE issues the word, a NOP changing nothing but the port's
answer; while BUSY it is dropped. -/
def Obligations.CommandWriteIssuesOrIsDropped : Prop :=
  ∀ (s : State) (w : Word) (rest : List Stimulus),
    HostMoves s (.bus (.write 0x00C w 0b1111)) rest →
    (s.eng = .idle → w = 0 →
      step s = .next { s with inputs := rest, resp := some ⟨0, false⟩ }) ∧
    (s.eng = .idle → w ≠ 0 →
      step s = .next { s with
        inputs := rest, resp := some ⟨0, false⟩, eng := .busy w, done := false }) ∧
    (∀ p, s.eng = .busy p →
      step s = .next { s with
        inputs := rest, turns := s.turns.tail, resp := some ⟨0, false⟩, errBusyWrite := true })

/-- The busy drop (R85): while BUSY a legal write to CTRL, CMD, CAP_LEN, START_OFFSET or the CAP_MEM
window only sets ERR_BUSY_WRITE; one to STATUS clears that bit by W1C; every other one does nothing.
That the slots of the window above the capacity are dropped too, though they are reserved, is the
model's reading (entry 9 of the log). -/
def Obligations.WriteWhileBusy : Prop :=
  ∀ (s : State) (p : Word) (off : Offset) (data : Word) (rest : List Stimulus),
    s.eng = .busy p → HostMoves s (.bus (.write off data 0b1111)) rest → off.toNat % 4 = 0 →
    step s = .next { s with
      inputs := rest, turns := s.turns.tail, resp := some ⟨0, false⟩,
      errBusyWrite :=
        if off = 0x008 ∨ off = 0x00C ∨ off = 0x014 ∨ off = 0x018 ∨ 0x1000 ≤ off.toNat then true
        else if off = 0x010 then s.errBusyWrite && !data.getLsbD 16
        else s.errBusyWrite }

/-- Reads while BUSY (R86): a legal read has no effect; STATUS shows BUSY = 1, DONE = 0,
ERR_BUSY_WRITE and free values in bits 2 to 6 and 8 to 11; MATCH_OFFSET, the result registers and
FRAME_BUF show a free value, a new one at every read; all else reads as it would with the engine
IDLE. The form of the free values, a constant without a body applied to a counter, is the model's
(entry 3 of the log), and so is the reading that they are free in all 32 bits and that the other bits
of STATUS are 0 (entry 21). That two states with equal counters draw the same value is the model's
choice too (entry 24). -/
def Obligations.ReadWhileBusy : Prop :=
  ∀ (s : State) (p : Word) (off : Offset) (rest : List Stimulus),
    s.build.Legal → s.eng = .busy p → HostMoves s (.bus (.read off)) rest → off.toNat % 4 = 0 →
    ∃ v : Word,
      if off = 0x010 then
        step s = .next { s with
          inputs := rest, turns := s.turns.tail, resp := some ⟨v, false⟩,
          freeReads := s.freeReads + 1 } ∧
        v.getLsbD 0 = true ∧ v.getLsbD 1 = false ∧ v.getLsbD 16 = s.errBusyWrite ∧
        ∀ i < 32, i ≠ 0 → i ≠ 1 → i ≠ 16 → v.getLsbD i =
          (((2 ≤ i ∧ i ≤ 6) ∨ (8 ≤ i ∧ i ≤ 11)) && (Config.busyRead s.freeReads).getLsbD i)
      else if off = 0x01C ∨ (0x020 ≤ off.toNat ∧ off.toNat ≤ 0x03C) ∨
          (0x100 ≤ off.toNat ∧ off.toNat < 0x100 + 12 * s.build.repeatCount) then
        step s = .next { s with
          inputs := rest, turns := s.turns.tail, resp := some ⟨v, false⟩,
          freeReads := s.freeReads + 1 } ∧ v = Config.busyRead s.freeReads
      else
        step s = .next { s with
          inputs := rest, turns := s.turns.tail, resp := some ⟨v, false⟩ } ∧
        step { s with eng := .idle } = .next { s with
          eng := .idle, inputs := rest, resp := some ⟨v, false⟩ }

/-- R51, R52 and R117: an access that is misaligned, or a write without all byte enables, is answered
with err = 1 and rdata = 0 and has no effect on any state, whether IDLE or BUSY; every other access
is answered with err = 0. -/
def Obligations.BusErrorHasNoEffect : Prop :=
  ∀ (s : State) (rest : List Stimulus),
    (∀ off, HostMoves s (.bus (.read off)) rest →
      (off.toNat % 4 ≠ 0 → step s = .next { afterMove s rest with resp := some ⟨0, true⟩ }) ∧
      (off.toNat % 4 = 0 → ∃ t v, step s = .next t ∧ t.resp = some ⟨v, false⟩)) ∧
    (∀ off data be, HostMoves s (.bus (.write off data be)) rest →
      (off.toNat % 4 ≠ 0 ∨ be ≠ 0b1111 →
        step s = .next { afterMove s rest with resp := some ⟨0, true⟩ }) ∧
      (off.toNat % 4 = 0 ∧ be = 0b1111 →
        ∃ t, step s = .next t ∧ t.resp = some ⟨0, false⟩))

/-- R54: a legal write to a read-only register or to FRAME_BUF is ignored and answered without error,
and does not set ERR_BUSY_WRITE even while BUSY; of STATUS only bit 16 is written, by W1C. -/
def Obligations.ReadOnlyWritesAreIgnored : Prop :=
  ∀ (s : State) (off : Offset) (data : Word) (rest : List Stimulus),
    HostMoves s (.bus (.write off data 0b1111)) rest → off.toNat % 4 = 0 →
    (off.toNat < 0x008 ∨ (0x01C ≤ off.toNat ∧ off.toNat < 0x040) ∨
        (0x100 ≤ off.toNat ∧ off.toNat < 0x140) →
      step s = .next { afterMove s rest with resp := some ⟨0, false⟩ }) ∧
    (off = 0x010 →
      step s = .next { afterMove s rest with
        resp := some ⟨0, false⟩, errBusyWrite := s.errBusyWrite && !data.getLsbD 16 })

/-- R53, for the reserved offsets below CAP_MEM: reads return 0, writes are ignored without error.
The reserved slots of CAP_MEM stand in `ReservedCaptureSlots`. -/
def Obligations.ReservedSpace : Prop :=
  ∀ (s : State) (off : Offset) (rest : List Stimulus),
    s.build.Legal → off.toNat % 4 = 0 →
    ((0x040 ≤ off.toNat ∧ off.toNat < 0x100) ∨
      (0x100 + 12 * s.build.repeatCount ≤ off.toNat ∧ off.toNat < 0x1000)) →
    (HostMoves s (.bus (.read off)) rest →
      step s = .next { afterMove s rest with resp := some ⟨0, false⟩ }) ∧
    (∀ data, HostMoves s (.bus (.write off data 0b1111)) rest →
      step s = .next { afterMove s rest with resp := some ⟨0, false⟩ })

/-- The model's reading of R53 beside R85 and R87 (entry 9 of the log): a slot of the CAP_MEM window
at or above the capacity reads 0 and stores nothing, but a write to it while IDLE invalidates
FOUND, and one while BUSY sets ERR_BUSY_WRITE. -/
def Obligations.ReservedCaptureSlots : Prop :=
  ∀ (s : State) (off : Offset) (rest : List Stimulus),
    off.toNat % 4 = 0 → 0x1000 + s.build.capBitsMax / 32 * 4 ≤ off.toNat →
    (HostMoves s (.bus (.read off)) rest →
      step s = .next { afterMove s rest with resp := some ⟨0, false⟩ }) ∧
    (∀ data, HostMoves s (.bus (.write off data 0b1111)) rest →
      (s.eng = .idle →
        step s = .next { s with
          inputs := rest, resp := some ⟨0, false⟩, found := false, matchOffset := 0xFFFF }) ∧
      (∀ p, s.eng = .busy p →
        step s = .next { s with
          inputs := rest, turns := s.turns.tail, resp := some ⟨0, false⟩,
          errBusyWrite := true }))

/-- Every register as a host reads it while IDLE, and no other effect (R16 to R20, R31 to R41, R59). -/
def Obligations.IdleReadOfEachRegister : Prop :=
  ∀ (s : State) (off : Offset) (rest : List Stimulus),
    s.build.Legal → s.eng = .idle → s.inputs = .bus (.read off) :: rest → off.toNat % 4 = 0 →
    ∃ v : Word, step s = .next { s with inputs := rest, resp := some ⟨v, false⟩ } ∧
      (off = 0x000 → v.toNat =
        s.build.repeatCount + 16 * s.build.comparePause.toNat + 256 * 12) ∧
      (off = 0x004 → v.toNat = s.build.capBitsMax) ∧
      (off = 0x008 → v.toNat = s.invert.toNat) ∧
      (off = 0x00C → v = 0) ∧
      (off = 0x014 → v.toNat = s.capLen.toNat) ∧
      (off = 0x018 → v.toNat = s.startOffset.toNat) ∧
      (off = 0x01C → v.toNat = s.matchOffset.toNat) ∧
      (off = 0x020 → v = s.results.device) ∧
      (off = 0x024 → v = s.results.temperature) ∧
      (off = 0x028 → v = s.results.humidity) ∧
      (off = 0x02C → v = s.results.rain) ∧
      (off = 0x030 → v = s.results.rainVolume) ∧
      (off = 0x034 → v = s.results.windSpeed) ∧
      (off = 0x038 → v = s.results.windDir) ∧
      (off = 0x03C → v = s.results.windLabel)

/-- The layout of STATUS as a host reads it while IDLE: each flag in its bit, REASON's code of R73 in
bits 11 to 8, zeros elsewhere (R21, R22). -/
def Obligations.StatusReadShowsTheFlags : Prop :=
  ∀ (s : State) (rest : List Stimulus),
    s.eng = .idle → s.inputs = .bus (.read 0x010) :: rest →
    ∃ v : Word, step s = .next { s with inputs := rest, resp := some ⟨v, false⟩ } ∧
      v.toNat = 2 * s.done.toNat + 4 * s.rejected.toNat + 8 * s.found.toNat +
        16 * s.extracted.toNat + 32 * s.valid.toNat + 64 * s.reading.toNat +
        256 * (match s.reason with
          | .none => 0
          | .preambleNotFound => 1
          | .insufficientBits => 2
          | .repeatMismatch => 3
          | .illegalCommand => 4
          | .precondition => 5) +
        65536 * s.errBusyWrite.toNat

/-- R56: FB byte j is read at FRAME_BUF word j div 4, the earlier byte more significant; the word slots
at and above 3 x REPEAT_COUNT read 0. -/
def Obligations.FrameBufferReads : Prop :=
  ∀ (s : State) (off : Offset) (w : Nat) (rest : List Stimulus),
    s.build.Legal → s.eng = .idle → s.inputs = .bus (.read off) :: rest →
    w < 16 → off.toNat = 0x100 + 4 * w →
    ∃ v : Word, step s = .next { s with inputs := rest, resp := some ⟨v, false⟩ } ∧
      (w < 3 * s.build.repeatCount →
        ∀ i < 4, v.extractLsb' (24 - 8 * i) 8 = frameByte s (4 * w + i)) ∧
      (3 * s.build.repeatCount ≤ w → v = 0)

/-- R55: a host write of CAP_MEM word w sets CAP[32w+k] to data[31-k] and no other bit, and a host
read of word w returns data[31-k] = CAP[32w+k], the stored bits whatever INVERT is. -/
def Obligations.CaptureWordPlacement : Prop :=
  ∀ (s : State) (off : Offset) (w : Nat) (rest : List Stimulus),
    s.eng = .idle → w < s.build.capBitsMax / 32 → off.toNat = 0x1000 + 4 * w →
    (s.inputs = .bus (.read off) :: rest →
      ∃ v : Word, step s = .next { s with inputs := rest, resp := some ⟨v, false⟩ } ∧
        ∀ k < 32, v.getLsbD (31 - k) = capBit s (32 * w + k)) ∧
    (∀ data, s.inputs = .bus (.write off data 0b1111) :: rest →
      ∃ t : State, step s = .next t ∧
        t = { s with
          inputs := rest, resp := some ⟨0, false⟩, found := false, matchOffset := 0xFFFF,
          mem := t.mem } ∧
        (∀ k < 32, capBit t (32 * w + k) = data.getLsbD (31 - k)) ∧
        (∀ i, i / 32 ≠ w → capBit t i = capBit s i) ∧
        ∀ a, a < off.toNat ∨ off.toNat + 4 ≤ a → t.mem.read a = s.mem.read a)

/-- Input writes (R87): a legal write while IDLE to CTRL, CAP_LEN, START_OFFSET or the CAP_MEM window
stores by the register's own rule, CAP_LEN saturating at the capacity, and then clears FOUND and sets
MATCH_OFFSET to 0xFFFF, whether or not the value changed; nothing else changes. That a slot of the
window above the capacity invalidates too, though it is reserved, is the model's reading (entry 9 of
the log), and the place of each byte within a word is its choice (entry 10). -/
def Obligations.InputRegisterWrites : Prop :=
  ∀ (s : State) (off : Offset) (data : Word) (rest : List Stimulus),
    s.build.Legal → s.eng = .idle → s.inputs = .bus (.write off data 0b1111) :: rest →
    (off = 0x008 →
      step s = .next { s with
        inputs := rest, resp := some ⟨0, false⟩, found := false, matchOffset := 0xFFFF,
        invert := data.getLsbD 0 }) ∧
    (off = 0x014 →
      ∃ t : State, step s = .next t ∧
        t = { s with
          inputs := rest, resp := some ⟨0, false⟩, found := false, matchOffset := 0xFFFF,
          capLen := t.capLen } ∧
        t.capLen.toNat = min (data.toNat % 65536) s.build.capBitsMax) ∧
    (off = 0x018 →
      ∃ t : State, step s = .next t ∧
        t = { s with
          inputs := rest, resp := some ⟨0, false⟩, found := false, matchOffset := 0xFFFF,
          startOffset := t.startOffset } ∧
        t.startOffset.toNat = data.toNat % 65536) ∧
    (0x1000 ≤ off.toNat → off.toNat % 4 = 0 →
      ∃ t : State, step s = .next t ∧
        t = { s with
          inputs := rest, resp := some ⟨0, false⟩, found := false, matchOffset := 0xFFFF,
          mem := t.mem } ∧
        (off.toNat < 0x1000 + s.build.capBitsMax / 8 →
          ∀ i < 4, t.mem.read (off.toNat + i) = data.extractLsb' (24 - 8 * i) 8) ∧
        ∀ a, a < off.toNat ∨ off.toNat + 4 ≤ a → t.mem.read a = s.mem.read a)

/-- The sticky bit (R30): a step sets ERR_BUSY_WRITE exactly where it drops a write while BUSY, and
clears it exactly where it is a write of STATUS with bit 16 = 1, in either engine state, or a reset
edge. That writes to the slots of the CAP_MEM window above the capacity count as dropped is the
model's reading (entry 9 of the log). -/
def Obligations.ErrBusyWriteIsSticky : Prop :=
  (∀ b : Build, (State.powerUp b).errBusyWrite = false) ∧
  ∀ s t : State, step s = .next t →
    (s.errBusyWrite = false →
      (t.errBusyWrite = true ↔
        s.isBusy = true ∧ ∃ (off : Offset) (data : Word) (rest : List Stimulus),
          HostMoves s (.bus (.write off data 0b1111)) rest ∧ off.toNat % 4 = 0 ∧
          (off = 0x008 ∨ off = 0x00C ∨ off = 0x014 ∨ off = 0x018 ∨ 0x1000 ≤ off.toNat))) ∧
    (s.errBusyWrite = true →
      (t.errBusyWrite = false ↔
        (∃ (data : Word) (rest : List Stimulus),
          HostMoves s (.bus (.write 0x010 data 0b1111)) rest ∧ data.getLsbD 16 = true) ∨
        ∃ (op : Option BusOp) (rest : List Stimulus), HostMoves s (.reset op) rest))

/-- The loop WAIT of R75: while BUSY it reads STATUS with BUSY = 1 and goes on; while IDLE it reads
BUSY = 0 and ends. -/
def Obligations.WaitPollsStatus : Prop :=
  ∀ (s : State) (rest : List Stimulus), HostMoves s .wait rest →
    (s.eng = .idle → ∃ v : Word,
      step s = .next { s with inputs := rest, resp := some ⟨v, false⟩ } ∧ v.getLsbD 0 = false) ∧
    (∀ p, s.eng = .busy p → ∃ v : Word,
      step s = .next { s with
        turns := s.turns.tail, resp := some ⟨v, false⟩, freeReads := s.freeReads + 1 } ∧
      v.getLsbD 0 = true)

/-! ## Reset -/

/-- R127 to R129: a reset edge, IDLE or BUSY, takes every register to its reset value, aborts the
command in flight, zeroes FRAME_BUF and leaves CAP_MEM unchanged. -/
def Obligations.ResetEdgeReachesTheResetState : Prop :=
  ∀ (s : State) (op : Option BusOp) (rest : List Stimulus),
    s.build.Legal → HostMoves s (.reset op) rest →
    ∃ t : State, step s = .next t ∧
      t = { afterMove s rest with
        eng := .idle, invert := false, capLen := 0, startOffset := 0, matchOffset := 0xFFFF,
        done := false, rejected := false, reason := .none, found := false, extracted := false,
        valid := false, reading := false, errBusyWrite := false,
        results := ⟨0, 0, 0, 0, 0, 0, 0, 0⟩, mem := t.mem, resp := t.resp } ∧
      (∀ j < 12 * s.build.repeatCount, frameByte t j = 0) ∧
      (∀ a, a < 0x100 ∨ 0x100 + 12 * s.build.repeatCount ≤ a → t.mem.read a = s.mem.read a) ∧
      ∀ i, capBit t i = capBit s i

/-- The registers and memories at power-up, in every build: the rows of the table of R127, the capture
memory with the free value CAP_INIT (R47, R129) in the model's form for it (entry 2 of the log). The
build of `State.reset` is the model's choice (entry 1); what its own fields `inputs`, `turns`, `resp`
and `freeReads` start with is not stated (entries 3 to 6). -/
def Obligations.PowerUpState : Prop :=
  State.reset = State.powerUp State.reset.build ∧ State.reset.build.Legal ∧
  ∀ b : Build,
    let s := State.powerUp b
    s.build = b ∧ s.eng = .idle ∧ s.invert = false ∧ s.capLen = 0 ∧ s.startOffset = 0 ∧
    s.matchOffset = 0xFFFF ∧ s.done = false ∧ s.rejected = false ∧ s.reason = .none ∧
    s.found = false ∧ s.extracted = false ∧ s.valid = false ∧ s.reading = false ∧
    s.errBusyWrite = false ∧ s.results = ⟨0, 0, 0, 0, 0, 0, 0, 0⟩ ∧
    (∀ j < 12 * b.repeatCount, b.Legal → frameByte s j = 0) ∧
    ∀ i, capBit s i = (Config.capInit (i / 8)).getMsbD (i % 8)

/-! ## LOCATE -/

/-- R90: LOCATE records the first offset at or after START_OFFSET whose 24 view bits lie below CAP_LEN
and read PREAMBLE; where there is none it ends in PREAMBLE_NOT_FOUND. Either way EXTRACTED, VALID,
READING and the result registers are cleared, and nothing else changes. -/
def Obligations.LocateFindsTheFirstMatch : Prop :=
  decode 2 = .locate ∧
  ∀ s : State,
    (∀ k, FirstMatch s k →
      exec .locate s = .next { s with
        found := true, matchOffset := BitVec.ofNat 16 k, extracted := false, valid := false,
        reading := false, results := ⟨0, 0, 0, 0, 0, 0, 0, 0⟩,
        rejected := false, reason := .none, done := true, eng := .idle }) ∧
    (NoMatch s →
      exec .locate s = .next { s with
        found := false, matchOffset := 0xFFFF, extracted := false, valid := false,
        reading := false, results := ⟨0, 0, 0, 0, 0, 0, 0, 0⟩,
        rejected := true, reason := .preambleNotFound, done := true, eng := .idle })

/-- R91 items 1, 2, 4 and 5, which the spec derives from R90: a capture shorter than the pattern, or a
start past its last place, is not found whatever the bits are; a found match never starts below
START_OFFSET nor ends past CAP_LEN. -/
def Obligations.LocateBounds : Prop :=
  ∀ s : State,
    (s.capLen.toNat < 24 ∨ s.capLen.toNat - 24 < s.startOffset.toNat →
      ∃ t, exec .locate s = .next t ∧ t.found = false ∧ t.reason = .preambleNotFound) ∧
    ∀ t, exec .locate s = .next t → t.rejected = false →
      t.found = true ∧ s.startOffset.toNat ≤ t.matchOffset.toNat ∧
        t.matchOffset.toNat + 24 ≤ s.capLen.toNat ∧ PreambleAt s t.matchOffset.toNat

/-- R91 item 6, which the spec derives: PREAMBLE has no self-overlap, so two places of it in one view
are at least 24 bits apart. -/
def Obligations.PreambleDoesNotOverlap : Prop :=
  ∀ (s : State) (j k : Nat), PreambleAt s j → PreambleAt s k → j < k → j + 24 ≤ k

/-! ## EXTRACT -/

/-- R93 and R94: with FOUND set, the capture holds enough bits exactly where MATCH_OFFSET + 96 R is at
most CAP_LEN, in numbers that do not wrap. Then EXTRACT copies the view bits from MATCH_OFFSET on
into FRAME_BUF, eight to a byte, first bit most significant, sets EXTRACTED, clears VALID, READING
and the results, and changes no other byte of memory; otherwise it is INSUFFICIENT_BITS. -/
def Obligations.ExtractCopiesTheFrames : Prop :=
  decode 3 = .extract ∧
  ∀ s : State, s.found = true →
    (s.matchOffset.toNat + 96 * s.build.repeatCount ≤ s.capLen.toNat →
      ∃ t : State, exec .extract s = .next t ∧
        t = { s with
          extracted := true, valid := false, reading := false,
          results := ⟨0, 0, 0, 0, 0, 0, 0, 0⟩,
          rejected := false, reason := .none, done := true, eng := .idle, mem := t.mem } ∧
        (∀ j b, j < 12 * s.build.repeatCount → b < 8 →
          (frameByte t j).getMsbD b = view s (s.matchOffset.toNat + 8 * j + b)) ∧
        ∀ a, a < 0x100 ∨ 0x100 + 12 * s.build.repeatCount ≤ a → t.mem.read a = s.mem.read a) ∧
    (s.capLen.toNat < s.matchOffset.toNat + 96 * s.build.repeatCount →
      ∃ t : State, exec .extract s = .next t ∧ t.reason = .insufficientBits)

/-- R96: an INSUFFICIENT_BITS rejection writes no byte of FRAME_BUF, nor of any memory. -/
def Obligations.InsufficientBitsLeavesTheBuffer : Prop :=
  ∀ s : State, s.found = true →
    s.capLen.toNat < s.matchOffset.toNat + 96 * s.build.repeatCount →
    exec .extract s = .next { s with
      extracted := false, valid := false, reading := false,
      results := ⟨0, 0, 0, 0, 0, 0, 0, 0⟩,
      rejected := true, reason := .insufficientBits, done := true, eng := .idle }

/-- R97, which the spec derives: after a LOCATE that finds and an EXTRACT that succeeds, FB[0..2] is
0xAA 0xA5 0x98. -/
def Obligations.ExtractedFrameStartsWithThePreamble : Prop :=
  ∀ s t u : State, s.build.Legal → exec .locate s = .next t → t.rejected = false →
    exec .extract t = .next u → u.rejected = false →
    frameByte u 0 = 0xAA ∧ frameByte u 1 = 0xA5 ∧ frameByte u 2 = 0x98

/-- R80: a stage command whose flag is clear ends as PRECONDITION and writes nothing else; with its
flag set it does not end so, and neither do LOCATE, DECODE and CLEAR, nor NOP, which ends no other
way than it found the record. -/
def Obligations.PreconditionWritesNothing : Prop :=
  ∀ s : State,
    (s.found = false → exec .extract s = .next { s with
      rejected := true, reason := .precondition, done := true, eng := .idle }) ∧
    (s.extracted = false → exec .validate s = .next { s with
      rejected := true, reason := .precondition, done := true, eng := .idle }) ∧
    (s.valid = false → exec .fields s = .next { s with
      rejected := true, reason := .precondition, done := true, eng := .idle }) ∧
    (s.found = true → ∃ t, exec .extract s = .next t ∧ t.reason ≠ .precondition) ∧
    (s.extracted = true → ∃ t, exec .validate s = .next t ∧ t.reason ≠ .precondition) ∧
    (s.valid = true → ∃ t, exec .fields s = .next t ∧ t.reason ≠ .precondition) ∧
    (∃ t, exec .locate s = .next t ∧ t.reason ≠ .precondition) ∧
    (∃ t, exec .decode s = .next t ∧ t.reason ≠ .precondition) ∧
    (∃ t, exec .clear s = .next t ∧ t.reason ≠ .precondition) ∧
    exec .nop s = .next s

/-! ## VALIDATE -/

/-- R98 and R100: with EXTRACTED set, VALIDATE sets VALID where every compared byte of every copy
equals copy 0's, and ends in REPEAT_MISMATCH where any differs. No byte of memory changes. -/
def Obligations.ValidateVerdict : Prop :=
  decode 4 = .validate ∧
  ∀ s : State, s.extracted = true →
    ((∀ r p, 1 ≤ r → r < s.build.repeatCount →
        p < (if s.build.comparePause then 12 else 11) →
        frameByte s (12 * r + p) = frameByte s p) →
      exec .validate s = .next { s with
        valid := true, reading := false, results := ⟨0, 0, 0, 0, 0, 0, 0, 0⟩,
        rejected := false, reason := .none, done := true, eng := .idle }) ∧
    (∀ r p, 1 ≤ r → r < s.build.repeatCount →
        p < (if s.build.comparePause then 12 else 11) →
        frameByte s (12 * r + p) ≠ frameByte s p →
      exec .validate s = .next { s with
        valid := false, reading := false, results := ⟨0, 0, 0, 0, 0, 0, 0, 0⟩,
        rejected := true, reason := .repeatMismatch, done := true, eng := .idle })

/-- The pause byte (R98): with COMPARE_PAUSE = 0, two blocks that differ only in memory, and whose
frame buffers differ at most in byte 11 of the copies, come out of VALIDATE alike. -/
def Obligations.PauseByteDoesNotCount : Prop :=
  ∀ (s : State) (m : Memory), s.build.comparePause = false →
    (∀ r p, r < s.build.repeatCount → p < 11 →
      frameByte { s with mem := m } (12 * r + p) = frameByte s (12 * r + p)) →
    ∃ t, exec .validate s = .next t ∧ exec .validate { s with mem := m } = .next { t with mem := m }

/-! ## FIELDS -/

/-- R103 to R109, R111 and R113, as arithmetic on the bytes of copy 0, in the places of R34 to R40:
with VALID set, FIELDS writes the numbers of the reading and sets READING; no flag beside the
completion record and no byte of memory changes. The label stands in `FieldsWritesTheLabel`. -/
def Obligations.FieldsWritesTheNumbers : Prop :=
  ∀ s : State, s.valid = true →
    let b := fun j => (frameByte s j).toNat
    ∃ t : State, exec .fields s = .next t ∧
      t = { s with
        results := t.results, reading := true,
        rejected := false, reason := .none, done := true, eng := .idle } ∧
      t.results.device.toNat =
        b 3 + 256 * (b 4 / 16) + 65536 * (if b 4 / 16 = 15 then 1 else 0) ∧
      t.results.temperature.toNat = b 4 % 16 * 256 + b 5 ∧
      t.results.humidity.toNat = b 6 ∧
      t.results.rain.toNat = b 7 * 16 + b 8 / 16 ∧
      t.results.rainVolume.toNat = (b 7 * 16 + b 8 / 16) * 75 ∧
      t.results.windSpeed.toNat = b 8 % 16 * 16 + b 9 / 16 ∧
      t.results.windDir.toNat = b 9 % 16 + 65536 * (b 9 % 16 * 225)

/-- The direction label, by index. The spec takes the entries 1 to 14 and the ASCII codes from general
knowledge (entry 18 of the log), so no rule is cited. -/
def Obligations.FieldsWritesTheLabel : Prop :=
  ∀ s : State, s.valid = true →
    ∃ t : State, exec .fields s = .next t ∧ t.reading = true ∧
      some t.results.windLabel.toNat =
        [0x0020204E, 0x004E4E45, 0x00204E45, 0x00454E45, 0x00202045, 0x00455345, 0x00205345,
          0x00535345, 0x00202053, 0x00535357, 0x00205357, 0x00575357, 0x00202057, 0x00574E57,
          0x00204E57, 0x004E4E57][(frameByte s 9).toNat % 16]?

/-- R114 and R102: FIELDS reads only bytes 3 to 9 of copy 0, so bytes 10 and 11, the preamble bytes
and the other copies change no result register. -/
def Obligations.FieldsReadsOnlyBytes3To9 : Prop :=
  ∀ (s : State) (m : Memory),
    (∀ j, 3 ≤ j → j ≤ 9 → frameByte { s with mem := m } j = frameByte s j) →
    ∃ t, exec .fields s = .next t ∧ exec .fields { s with mem := m } = .next { t with mem := m }

/-! ## CLEAR -/

/-- R83: CLEAR clears FOUND, EXTRACTED, VALID, READING, MATCH_OFFSET, the results and every byte of
FRAME_BUF, and changes no other byte of memory, input register or sticky bit. -/
def Obligations.ClearReturnsTheResultSide : Prop :=
  decode 6 = .clear ∧
  ∀ s : State,
    ∃ t : State, exec .clear s = .next t ∧
      t = { s with
        found := false, matchOffset := 0xFFFF, extracted := false, valid := false,
        reading := false, results := ⟨0, 0, 0, 0, 0, 0, 0, 0⟩,
        rejected := false, reason := .none, done := true, eng := .idle, mem := t.mem } ∧
      (∀ j < 12 * s.build.repeatCount, frameByte t j = 0) ∧
      ∀ a, a < 0x100 ∨ 0x100 + 12 * s.build.repeatCount ≤ a → t.mem.read a = s.mem.read a

/-! ## DECODE -/

/-- The end states of DECODE by outcome, the table of R81, in terms of the capture alone: no match; a
match with too few bits; copies that disagree; success. -/
def Obligations.DecodeEndStates : Prop :=
  ∀ s : State,
    (NoMatch s →
      exec .decode s = .next { s with
        found := false, matchOffset := 0xFFFF, extracted := false, valid := false,
        reading := false, results := ⟨0, 0, 0, 0, 0, 0, 0, 0⟩,
        rejected := true, reason := .preambleNotFound, done := true, eng := .idle }) ∧
    ∀ k, FirstMatch s k →
      (s.capLen.toNat < k + 96 * s.build.repeatCount →
        exec .decode s = .next { s with
          found := true, matchOffset := BitVec.ofNat 16 k, extracted := false, valid := false,
          reading := false, results := ⟨0, 0, 0, 0, 0, 0, 0, 0⟩,
          rejected := true, reason := .insufficientBits, done := true, eng := .idle }) ∧
      (k + 96 * s.build.repeatCount ≤ s.capLen.toNat →
        ∃ t : State, exec .decode s = .next t ∧
          (∀ j b, j < 12 * s.build.repeatCount → b < 8 →
            (frameByte t j).getMsbD b = view s (k + 8 * j + b)) ∧
          (∀ a, a < 0x100 ∨ 0x100 + 12 * s.build.repeatCount ≤ a →
            t.mem.read a = s.mem.read a) ∧
          ((∀ r p b, 1 ≤ r → r < s.build.repeatCount →
              p < (if s.build.comparePause then 12 else 11) → b < 8 →
              view s (k + 96 * r + 8 * p + b) = view s (k + 8 * p + b)) →
            t = { s with
              found := true, matchOffset := BitVec.ofNat 16 k, extracted := true, valid := true,
              reading := true, results := readingOf (frameByte t),
              rejected := false, reason := .none, done := true, eng := .idle, mem := t.mem }) ∧
          (∀ r p b, 1 ≤ r → r < s.build.repeatCount →
              p < (if s.build.comparePause then 12 else 11) → b < 8 →
              view s (k + 96 * r + 8 * p + b) ≠ view s (k + 8 * p + b) →
            t = { s with
              found := true, matchOffset := BitVec.ofNat 16 k, extracted := true, valid := false,
              reading := false, results := ⟨0, 0, 0, 0, 0, 0, 0, 0⟩,
              rejected := true, reason := .repeatMismatch, done := true, eng := .idle,
              mem := t.mem }))

/-- DECODE is the pipeline of the four stage commands: it ends in the very state that LOCATE, EXTRACT,
VALIDATE and FIELDS, run one by one and stopped at the first rejection, end in (R3, R81). -/
def Obligations.DecodeIsTheFourStages : Prop :=
  ∀ s : State,
    (∃ t, exec .decode s = .next t) ∧
    exec .decode s = runStages [.locate, .extract, .validate, .fields] s

/-- A second DECODE with unchanged inputs ends in the same state (a corner case R81 derives). -/
def Obligations.SecondDecodeChangesNothing : Prop :=
  ∀ s t : State, s.build.Legal → s.mem.wf → exec .decode s = .next t → exec .decode t = .next t

/-! ## The whole machine -/

/-- R65: no command changes an input register, ERR_BUSY_WRITE, the build or a byte of CAP_MEM, nor any
byte of memory outside FRAME_BUF; every command but NOP leaves the engine IDLE. -/
def Obligations.CommandsKeepTheInputs : Prop :=
  ∀ (i : Instr) (s t : State), s.build.Legal → exec i s = .next t →
    InputsKept s t ∧ (i ≠ .nop → t.eng = .idle)

/-- R57 and R66: what a command does depends on the capture only through the view of the bits below
CAP_LEN. Two blocks alike but for CAP_MEM and CTRL.INVERT, whose views agree there, end in the same
flags, REASON, MATCH_OFFSET, results and frame buffer. -/
def Obligations.OnlyTheViewBelowCapLenMatters : Prop :=
  ∀ (i : Instr) (s u : State), s.build.Legal → SameOutcome s u → u.build = s.build →
    u.capLen = s.capLen → u.startOffset = s.startOffset →
    (∀ j < s.capLen.toNat, view u j = view s j) →
    ∃ t v, exec i s = .next t ∧ exec i u = .next v ∧ SameOutcome t v

/-- The completion record (R24, R25, R78, R115, R116): every command but NOP leaves the engine IDLE,
DONE set and ERR_BUSY_WRITE alone; REJECTED is set exactly where REASON is not NONE; a rejection of
code 1 to 3 leaves no reading; one of code 4 or 5 changes nothing but the record. -/
def Obligations.CompletionRecord : Prop :=
  ∀ (i : Instr) (s : State), i ≠ .nop → ∃ t, exec i s = .next t ∧
    t.eng = .idle ∧ t.done = true ∧ t.errBusyWrite = s.errBusyWrite ∧
    (t.rejected = true ↔ t.reason ≠ .none) ∧
    (t.reason = .preambleNotFound ∨ t.reason = .insufficientBits ∨ t.reason = .repeatMismatch →
      t.reading = false ∧ t.results = ⟨0, 0, 0, 0, 0, 0, 0, 0⟩) ∧
    (t.reason = .illegalCommand ∨ t.reason = .precondition →
      t = { s with rejected := true, reason := t.reason, done := true, eng := .idle })

/-- R26 to R29: FOUND, EXTRACTED, VALID and READING are set only by the completion of their own stage,
alone or in a DECODE: the command was pending, and the step leaves the engine IDLE. -/
def Obligations.FlagsAreSetOnlyByTheirStage : Prop :=
  ∀ s t : State, step s = .next t →
    (s.found = false → t.found = true →
      ∃ w, s.eng = .busy w ∧ t.eng = .idle ∧ (decode w = .locate ∨ decode w = .decode)) ∧
    (s.extracted = false → t.extracted = true →
      ∃ w, s.eng = .busy w ∧ t.eng = .idle ∧ (decode w = .extract ∨ decode w = .decode)) ∧
    (s.valid = false → t.valid = true →
      ∃ w, s.eng = .busy w ∧ t.eng = .idle ∧ (decode w = .validate ∨ decode w = .decode)) ∧
    (s.reading = false → t.reading = true →
      ∃ w, s.eng = .busy w ∧ t.eng = .idle ∧ (decode w = .fields ∨ decode w = .decode))

/-- R42: where READING is 0 the eight result registers are zero; it holds at reset in every build and
every step keeps it. -/
def Obligations.NoReadingNoResults : Prop :=
  (∀ b : Build, (State.powerUp b).results = ⟨0, 0, 0, 0, 0, 0, 0, 0⟩) ∧
  ∀ s t : State, step s = .next t →
    (s.reading = false → s.results = ⟨0, 0, 0, 0, 0, 0, 0, 0⟩) →
    (t.reading = false → t.results = ⟨0, 0, 0, 0, 0, 0, 0, 0⟩)

/-- Every invariant of R89, with those of R5, R7, R22, R31 and R43 beside them, is kept by every step
from every state that has them. -/
def Obligations.EveryStepKeepsTheInvariants : Prop :=
  ∀ s t : State, Inv s → step s = .next t → Inv t

/-- The invariants hold at reset, and at power-up of every legal build. -/
def Obligations.InvariantsHoldAtReset : Prop :=
  Inv State.reset ∧ ∀ b : Build, b.Legal → Inv (State.powerUp b)

/-- R78 and R85: while a command is in flight, each step either leaves the engine IDLE or leaves alone
everything but ERR_BUSY_WRITE, the port's response and what is not state of the block. -/
def Obligations.BusyStepsKeepWhatTheCommandReads : Prop :=
  ∀ (s t : State) (w : Word), s.eng = .busy w → step s = .next t →
    t.eng = .idle ∨
      t = { s with
        errBusyWrite := t.errBusyWrite, resp := t.resp, inputs := t.inputs, turns := t.turns,
        freeReads := t.freeReads }

/-- The schedule does not change a command's outcome (R78, R119): however many host steps come between
the issue and the completion, the command ends as it would have at once. -/
def Obligations.ScheduleDoesNotChangeTheOutcome : Prop :=
  ∀ (n : Nat) (s u : State) (w : Word), s.eng = .busy w → BusyPath n s u →
    u.eng = .busy w ∧ ∃ t v, exec (decode w) s = .next t ∧ exec (decode w) u = .next v ∧
      SameOutcome t v ∧ v.mem = t.mem

/-- Progress (R88, which gives no bound): a command in flight completes, or is aborted by a reset, after
at most one step more than the schedule has turns. The finite list of turns is the model's form of
weak fairness (entry 5 of the log). -/
def Obligations.EveryCommandEnds : Prop :=
  ∀ (s : State) (w : Word), s.eng = .busy w → decode w ≠ .nop →
    ∃ n t, n ≤ s.turns.length + 1 ∧ Sys2Proof.core.run n s = .next t ∧ t.eng = .idle

/-- R76 and R132: a host that waits after every command never loses a write, whatever the schedule:
the discipline is kept by every step, and ERR_BUSY_WRITE stays 0. -/
def Obligations.PacedHostLosesNoWrite : Prop :=
  ∀ s t : State, Paced s → step s = .next t → Paced t

/-- R131: a host that waits never reads an open value, but for the bits of STATUS that its WAIT loop
does not look at. -/
def Obligations.PacedHostReadsNoOpenValue : Prop :=
  ∀ s t : State, Paced s → step s = .next t → t.freeReads ≠ s.freeReads →
    ∃ rest, s.inputs = .wait :: rest ∨ s.inputs = .bus (.read 0x010) :: rest

/-- R124: a step of one instance is the step of that instance alone, and leaves every other instance as
it was. The constants of the free values, which the model shares between instances (entries 2 and 24
of the log), are no state. -/
def Obligations.InstancesShareNothing : Prop :=
  ∀ (system : List State) (n : Nat) (s : State), system[n]? = some s →
    ∃ t next, step s = .next t ∧ stepInstance system n = .next next ∧ next[n]? = some t ∧
      ∀ m, m ≠ n → next[m]? = system[m]?
end

