-- ==== Sys2Proof/Laws/State.lean ====
section
/-! SUPPORT. One lemma per field and update of `State`, each true by `rfl` and tagged `@[simp]`, so that
no proof unfolds a record update. -/

namespace Sys2Proof.Machine

/-! ### `InvalidateReading()` (R79) -/

@[simp] theorem State.invalidateReading_build (s : State) :
    (s.invalidateReading).build = s.build := rfl
@[simp] theorem State.invalidateReading_eng (s : State) : (s.invalidateReading).eng = s.eng := rfl
@[simp] theorem State.invalidateReading_invert (s : State) :
    (s.invalidateReading).invert = s.invert := rfl
@[simp] theorem State.invalidateReading_capLen (s : State) :
    (s.invalidateReading).capLen = s.capLen := rfl
@[simp] theorem State.invalidateReading_startOffset (s : State) :
    (s.invalidateReading).startOffset = s.startOffset := rfl
@[simp] theorem State.invalidateReading_matchOffset (s : State) :
    (s.invalidateReading).matchOffset = s.matchOffset := rfl
@[simp] theorem State.invalidateReading_done (s : State) :
    (s.invalidateReading).done = s.done := rfl
@[simp] theorem State.invalidateReading_rejected (s : State) :
    (s.invalidateReading).rejected = s.rejected := rfl
@[simp] theorem State.invalidateReading_reason (s : State) :
    (s.invalidateReading).reason = s.reason := rfl
@[simp] theorem State.invalidateReading_found (s : State) :
    (s.invalidateReading).found = s.found := rfl
@[simp] theorem State.invalidateReading_extracted (s : State) :
    (s.invalidateReading).extracted = s.extracted := rfl
@[simp] theorem State.invalidateReading_valid (s : State) :
    (s.invalidateReading).valid = s.valid := rfl
@[simp] theorem State.invalidateReading_reading (s : State) :
    (s.invalidateReading).reading = false := rfl
@[simp] theorem State.invalidateReading_errBusyWrite (s : State) :
    (s.invalidateReading).errBusyWrite = s.errBusyWrite := rfl
@[simp] theorem State.invalidateReading_results (s : State) :
    (s.invalidateReading).results = Results.zero := rfl
@[simp] theorem State.invalidateReading_mem (s : State) : (s.invalidateReading).mem = s.mem := rfl
@[simp] theorem State.invalidateReading_inputs (s : State) :
    (s.invalidateReading).inputs = s.inputs := rfl
@[simp] theorem State.invalidateReading_turns (s : State) :
    (s.invalidateReading).turns = s.turns := rfl
@[simp] theorem State.invalidateReading_resp (s : State) :
    (s.invalidateReading).resp = s.resp := rfl
@[simp] theorem State.invalidateReading_freeReads (s : State) :
    (s.invalidateReading).freeReads = s.freeReads := rfl

/-! ### `InvalidateValid()` (R79) -/

@[simp] theorem State.invalidateValid_build (s : State) : (s.invalidateValid).build = s.build := rfl
@[simp] theorem State.invalidateValid_eng (s : State) : (s.invalidateValid).eng = s.eng := rfl
@[simp] theorem State.invalidateValid_invert (s : State) :
    (s.invalidateValid).invert = s.invert := rfl
@[simp] theorem State.invalidateValid_capLen (s : State) :
    (s.invalidateValid).capLen = s.capLen := rfl
@[simp] theorem State.invalidateValid_startOffset (s : State) :
    (s.invalidateValid).startOffset = s.startOffset := rfl
@[simp] theorem State.invalidateValid_matchOffset (s : State) :
    (s.invalidateValid).matchOffset = s.matchOffset := rfl
@[simp] theorem State.invalidateValid_done (s : State) : (s.invalidateValid).done = s.done := rfl
@[simp] theorem State.invalidateValid_rejected (s : State) :
    (s.invalidateValid).rejected = s.rejected := rfl
@[simp] theorem State.invalidateValid_reason (s : State) :
    (s.invalidateValid).reason = s.reason := rfl
@[simp] theorem State.invalidateValid_found (s : State) : (s.invalidateValid).found = s.found := rfl
@[simp] theorem State.invalidateValid_extracted (s : State) :
    (s.invalidateValid).extracted = s.extracted := rfl
@[simp] theorem State.invalidateValid_valid (s : State) : (s.invalidateValid).valid = false := rfl
@[simp] theorem State.invalidateValid_reading (s : State) :
    (s.invalidateValid).reading = false := rfl
@[simp] theorem State.invalidateValid_errBusyWrite (s : State) :
    (s.invalidateValid).errBusyWrite = s.errBusyWrite := rfl
@[simp] theorem State.invalidateValid_results (s : State) :
    (s.invalidateValid).results = Results.zero := rfl
@[simp] theorem State.invalidateValid_mem (s : State) : (s.invalidateValid).mem = s.mem := rfl
@[simp] theorem State.invalidateValid_inputs (s : State) :
    (s.invalidateValid).inputs = s.inputs := rfl
@[simp] theorem State.invalidateValid_turns (s : State) : (s.invalidateValid).turns = s.turns := rfl
@[simp] theorem State.invalidateValid_resp (s : State) : (s.invalidateValid).resp = s.resp := rfl
@[simp] theorem State.invalidateValid_freeReads (s : State) :
    (s.invalidateValid).freeReads = s.freeReads := rfl

/-! ### `InvalidateExtracted()` (R79) -/

@[simp] theorem State.invalidateExtracted_build (s : State) :
    (s.invalidateExtracted).build = s.build := rfl
@[simp] theorem State.invalidateExtracted_eng (s : State) :
    (s.invalidateExtracted).eng = s.eng := rfl
@[simp] theorem State.invalidateExtracted_invert (s : State) :
    (s.invalidateExtracted).invert = s.invert := rfl
@[simp] theorem State.invalidateExtracted_capLen (s : State) :
    (s.invalidateExtracted).capLen = s.capLen := rfl
@[simp] theorem State.invalidateExtracted_startOffset (s : State) :
    (s.invalidateExtracted).startOffset = s.startOffset := rfl
@[simp] theorem State.invalidateExtracted_matchOffset (s : State) :
    (s.invalidateExtracted).matchOffset = s.matchOffset := rfl
@[simp] theorem State.invalidateExtracted_done (s : State) :
    (s.invalidateExtracted).done = s.done := rfl
@[simp] theorem State.invalidateExtracted_rejected (s : State) :
    (s.invalidateExtracted).rejected = s.rejected := rfl
@[simp] theorem State.invalidateExtracted_reason (s : State) :
    (s.invalidateExtracted).reason = s.reason := rfl
@[simp] theorem State.invalidateExtracted_found (s : State) :
    (s.invalidateExtracted).found = s.found := rfl
@[simp] theorem State.invalidateExtracted_extracted (s : State) :
    (s.invalidateExtracted).extracted = false := rfl
@[simp] theorem State.invalidateExtracted_valid (s : State) :
    (s.invalidateExtracted).valid = false := rfl
@[simp] theorem State.invalidateExtracted_reading (s : State) :
    (s.invalidateExtracted).reading = false := rfl
@[simp] theorem State.invalidateExtracted_errBusyWrite (s : State) :
    (s.invalidateExtracted).errBusyWrite = s.errBusyWrite := rfl
@[simp] theorem State.invalidateExtracted_results (s : State) :
    (s.invalidateExtracted).results = Results.zero := rfl
@[simp] theorem State.invalidateExtracted_mem (s : State) :
    (s.invalidateExtracted).mem = s.mem := rfl
@[simp] theorem State.invalidateExtracted_inputs (s : State) :
    (s.invalidateExtracted).inputs = s.inputs := rfl
@[simp] theorem State.invalidateExtracted_turns (s : State) :
    (s.invalidateExtracted).turns = s.turns := rfl
@[simp] theorem State.invalidateExtracted_resp (s : State) :
    (s.invalidateExtracted).resp = s.resp := rfl
@[simp] theorem State.invalidateExtracted_freeReads (s : State) :
    (s.invalidateExtracted).freeReads = s.freeReads := rfl

/-! ### `InvalidateFound()` (R79) -/

@[simp] theorem State.invalidateFound_build (s : State) : (s.invalidateFound).build = s.build := rfl
@[simp] theorem State.invalidateFound_eng (s : State) : (s.invalidateFound).eng = s.eng := rfl
@[simp] theorem State.invalidateFound_invert (s : State) :
    (s.invalidateFound).invert = s.invert := rfl
@[simp] theorem State.invalidateFound_capLen (s : State) :
    (s.invalidateFound).capLen = s.capLen := rfl
@[simp] theorem State.invalidateFound_startOffset (s : State) :
    (s.invalidateFound).startOffset = s.startOffset := rfl
@[simp] theorem State.invalidateFound_matchOffset (s : State) :
    (s.invalidateFound).matchOffset = notFound := rfl
@[simp] theorem State.invalidateFound_done (s : State) : (s.invalidateFound).done = s.done := rfl
@[simp] theorem State.invalidateFound_rejected (s : State) :
    (s.invalidateFound).rejected = s.rejected := rfl
@[simp] theorem State.invalidateFound_reason (s : State) :
    (s.invalidateFound).reason = s.reason := rfl
@[simp] theorem State.invalidateFound_found (s : State) : (s.invalidateFound).found = false := rfl
@[simp] theorem State.invalidateFound_extracted (s : State) :
    (s.invalidateFound).extracted = false := rfl
@[simp] theorem State.invalidateFound_valid (s : State) : (s.invalidateFound).valid = false := rfl
@[simp] theorem State.invalidateFound_reading (s : State) :
    (s.invalidateFound).reading = false := rfl
@[simp] theorem State.invalidateFound_errBusyWrite (s : State) :
    (s.invalidateFound).errBusyWrite = s.errBusyWrite := rfl
@[simp] theorem State.invalidateFound_results (s : State) :
    (s.invalidateFound).results = Results.zero := rfl
@[simp] theorem State.invalidateFound_mem (s : State) : (s.invalidateFound).mem = s.mem := rfl
@[simp] theorem State.invalidateFound_inputs (s : State) :
    (s.invalidateFound).inputs = s.inputs := rfl
@[simp] theorem State.invalidateFound_turns (s : State) : (s.invalidateFound).turns = s.turns := rfl
@[simp] theorem State.invalidateFound_resp (s : State) : (s.invalidateFound).resp = s.resp := rfl
@[simp] theorem State.invalidateFound_freeReads (s : State) :
    (s.invalidateFound).freeReads = s.freeReads := rfl

/-! ### an accepted input write (R87) -/

@[simp] theorem State.inputWritten_build (s : State) : (s.inputWritten).build = s.build := rfl
@[simp] theorem State.inputWritten_eng (s : State) : (s.inputWritten).eng = s.eng := rfl
@[simp] theorem State.inputWritten_invert (s : State) : (s.inputWritten).invert = s.invert := rfl
@[simp] theorem State.inputWritten_capLen (s : State) : (s.inputWritten).capLen = s.capLen := rfl
@[simp] theorem State.inputWritten_startOffset (s : State) :
    (s.inputWritten).startOffset = s.startOffset := rfl
@[simp] theorem State.inputWritten_matchOffset (s : State) :
    (s.inputWritten).matchOffset = notFound := rfl
@[simp] theorem State.inputWritten_done (s : State) : (s.inputWritten).done = s.done := rfl
@[simp] theorem State.inputWritten_rejected (s : State) :
    (s.inputWritten).rejected = s.rejected := rfl
@[simp] theorem State.inputWritten_reason (s : State) : (s.inputWritten).reason = s.reason := rfl
@[simp] theorem State.inputWritten_found (s : State) : (s.inputWritten).found = false := rfl
@[simp] theorem State.inputWritten_extracted (s : State) :
    (s.inputWritten).extracted = s.extracted := rfl
@[simp] theorem State.inputWritten_valid (s : State) : (s.inputWritten).valid = s.valid := rfl
@[simp] theorem State.inputWritten_reading (s : State) : (s.inputWritten).reading = s.reading := rfl
@[simp] theorem State.inputWritten_errBusyWrite (s : State) :
    (s.inputWritten).errBusyWrite = s.errBusyWrite := rfl
@[simp] theorem State.inputWritten_results (s : State) : (s.inputWritten).results = s.results := rfl
@[simp] theorem State.inputWritten_mem (s : State) : (s.inputWritten).mem = s.mem := rfl
@[simp] theorem State.inputWritten_inputs (s : State) : (s.inputWritten).inputs = s.inputs := rfl
@[simp] theorem State.inputWritten_turns (s : State) : (s.inputWritten).turns = s.turns := rfl
@[simp] theorem State.inputWritten_resp (s : State) : (s.inputWritten).resp = s.resp := rfl
@[simp] theorem State.inputWritten_freeReads (s : State) :
    (s.inputWritten).freeReads = s.freeReads := rfl

/-! ### clearing FRAME_BUF (R83) -/

@[simp] theorem State.clearFrame_build (s : State) : (s.clearFrame).build = s.build := rfl
@[simp] theorem State.clearFrame_eng (s : State) : (s.clearFrame).eng = s.eng := rfl
@[simp] theorem State.clearFrame_invert (s : State) : (s.clearFrame).invert = s.invert := rfl
@[simp] theorem State.clearFrame_capLen (s : State) : (s.clearFrame).capLen = s.capLen := rfl
@[simp] theorem State.clearFrame_startOffset (s : State) :
    (s.clearFrame).startOffset = s.startOffset := rfl
@[simp] theorem State.clearFrame_matchOffset (s : State) :
    (s.clearFrame).matchOffset = s.matchOffset := rfl
@[simp] theorem State.clearFrame_done (s : State) : (s.clearFrame).done = s.done := rfl
@[simp] theorem State.clearFrame_rejected (s : State) : (s.clearFrame).rejected = s.rejected := rfl
@[simp] theorem State.clearFrame_reason (s : State) : (s.clearFrame).reason = s.reason := rfl
@[simp] theorem State.clearFrame_found (s : State) : (s.clearFrame).found = s.found := rfl
@[simp] theorem State.clearFrame_extracted (s : State) :
    (s.clearFrame).extracted = s.extracted := rfl
@[simp] theorem State.clearFrame_valid (s : State) : (s.clearFrame).valid = s.valid := rfl
@[simp] theorem State.clearFrame_reading (s : State) : (s.clearFrame).reading = s.reading := rfl
@[simp] theorem State.clearFrame_errBusyWrite (s : State) :
    (s.clearFrame).errBusyWrite = s.errBusyWrite := rfl
@[simp] theorem State.clearFrame_results (s : State) : (s.clearFrame).results = s.results := rfl
@[simp] theorem State.clearFrame_mem (s : State) :
    (s.clearFrame).mem = s.mem.writeBytes frameBase (List.replicate (frameLen s.build) 0) := rfl
@[simp] theorem State.clearFrame_inputs (s : State) : (s.clearFrame).inputs = s.inputs := rfl
@[simp] theorem State.clearFrame_turns (s : State) : (s.clearFrame).turns = s.turns := rfl
@[simp] theorem State.clearFrame_resp (s : State) : (s.clearFrame).resp = s.resp := rfl
@[simp] theorem State.clearFrame_freeReads (s : State) :
    (s.clearFrame).freeReads = s.freeReads := rfl

/-! ### writing FRAME_BUF (R94) -/

@[simp] theorem State.writeFrame_build (s : State) (bs : List Byte) :
    (s.writeFrame bs).build = s.build := rfl
@[simp] theorem State.writeFrame_eng (s : State) (bs : List Byte) :
    (s.writeFrame bs).eng = s.eng := rfl
@[simp] theorem State.writeFrame_invert (s : State) (bs : List Byte) :
    (s.writeFrame bs).invert = s.invert := rfl
@[simp] theorem State.writeFrame_capLen (s : State) (bs : List Byte) :
    (s.writeFrame bs).capLen = s.capLen := rfl
@[simp] theorem State.writeFrame_startOffset (s : State) (bs : List Byte) :
    (s.writeFrame bs).startOffset = s.startOffset := rfl
@[simp] theorem State.writeFrame_matchOffset (s : State) (bs : List Byte) :
    (s.writeFrame bs).matchOffset = s.matchOffset := rfl
@[simp] theorem State.writeFrame_done (s : State) (bs : List Byte) :
    (s.writeFrame bs).done = s.done := rfl
@[simp] theorem State.writeFrame_rejected (s : State) (bs : List Byte) :
    (s.writeFrame bs).rejected = s.rejected := rfl
@[simp] theorem State.writeFrame_reason (s : State) (bs : List Byte) :
    (s.writeFrame bs).reason = s.reason := rfl
@[simp] theorem State.writeFrame_found (s : State) (bs : List Byte) :
    (s.writeFrame bs).found = s.found := rfl
@[simp] theorem State.writeFrame_extracted (s : State) (bs : List Byte) :
    (s.writeFrame bs).extracted = s.extracted := rfl
@[simp] theorem State.writeFrame_valid (s : State) (bs : List Byte) :
    (s.writeFrame bs).valid = s.valid := rfl
@[simp] theorem State.writeFrame_reading (s : State) (bs : List Byte) :
    (s.writeFrame bs).reading = s.reading := rfl
@[simp] theorem State.writeFrame_errBusyWrite (s : State) (bs : List Byte) :
    (s.writeFrame bs).errBusyWrite = s.errBusyWrite := rfl
@[simp] theorem State.writeFrame_results (s : State) (bs : List Byte) :
    (s.writeFrame bs).results = s.results := rfl
@[simp] theorem State.writeFrame_mem (s : State) (bs : List Byte) :
    (s.writeFrame bs).mem = s.mem.writeBytes frameBase bs := rfl
@[simp] theorem State.writeFrame_inputs (s : State) (bs : List Byte) :
    (s.writeFrame bs).inputs = s.inputs := rfl
@[simp] theorem State.writeFrame_turns (s : State) (bs : List Byte) :
    (s.writeFrame bs).turns = s.turns := rfl
@[simp] theorem State.writeFrame_resp (s : State) (bs : List Byte) :
    (s.writeFrame bs).resp = s.resp := rfl
@[simp] theorem State.writeFrame_freeReads (s : State) (bs : List Byte) :
    (s.writeFrame bs).freeReads = s.freeReads := rfl

/-! ### the issue of a command (R77) -/

@[simp] theorem State.beginCommand_build (s : State) (w : Word) :
    (s.beginCommand w).build = s.build := rfl
@[simp] theorem State.beginCommand_eng (s : State) (w : Word) :
    (s.beginCommand w).eng = .busy w := rfl
@[simp] theorem State.beginCommand_invert (s : State) (w : Word) :
    (s.beginCommand w).invert = s.invert := rfl
@[simp] theorem State.beginCommand_capLen (s : State) (w : Word) :
    (s.beginCommand w).capLen = s.capLen := rfl
@[simp] theorem State.beginCommand_startOffset (s : State) (w : Word) :
    (s.beginCommand w).startOffset = s.startOffset := rfl
@[simp] theorem State.beginCommand_matchOffset (s : State) (w : Word) :
    (s.beginCommand w).matchOffset = s.matchOffset := rfl
@[simp] theorem State.beginCommand_done (s : State) (w : Word) :
    (s.beginCommand w).done = false := rfl
@[simp] theorem State.beginCommand_rejected (s : State) (w : Word) :
    (s.beginCommand w).rejected = s.rejected := rfl
@[simp] theorem State.beginCommand_reason (s : State) (w : Word) :
    (s.beginCommand w).reason = s.reason := rfl
@[simp] theorem State.beginCommand_found (s : State) (w : Word) :
    (s.beginCommand w).found = s.found := rfl
@[simp] theorem State.beginCommand_extracted (s : State) (w : Word) :
    (s.beginCommand w).extracted = s.extracted := rfl
@[simp] theorem State.beginCommand_valid (s : State) (w : Word) :
    (s.beginCommand w).valid = s.valid := rfl
@[simp] theorem State.beginCommand_reading (s : State) (w : Word) :
    (s.beginCommand w).reading = s.reading := rfl
@[simp] theorem State.beginCommand_errBusyWrite (s : State) (w : Word) :
    (s.beginCommand w).errBusyWrite = s.errBusyWrite := rfl
@[simp] theorem State.beginCommand_results (s : State) (w : Word) :
    (s.beginCommand w).results = s.results := rfl
@[simp] theorem State.beginCommand_mem (s : State) (w : Word) :
    (s.beginCommand w).mem = s.mem := rfl
@[simp] theorem State.beginCommand_inputs (s : State) (w : Word) :
    (s.beginCommand w).inputs = s.inputs := rfl
@[simp] theorem State.beginCommand_turns (s : State) (w : Word) :
    (s.beginCommand w).turns = s.turns := rfl
@[simp] theorem State.beginCommand_resp (s : State) (w : Word) :
    (s.beginCommand w).resp = s.resp := rfl
@[simp] theorem State.beginCommand_freeReads (s : State) (w : Word) :
    (s.beginCommand w).freeReads = s.freeReads := rfl

/-! ### a dropped write (R85) -/

@[simp] theorem State.busyDrop_build (s : State) : (s.busyDrop).build = s.build := rfl
@[simp] theorem State.busyDrop_eng (s : State) : (s.busyDrop).eng = s.eng := rfl
@[simp] theorem State.busyDrop_invert (s : State) : (s.busyDrop).invert = s.invert := rfl
@[simp] theorem State.busyDrop_capLen (s : State) : (s.busyDrop).capLen = s.capLen := rfl
@[simp] theorem State.busyDrop_startOffset (s : State) :
    (s.busyDrop).startOffset = s.startOffset := rfl
@[simp] theorem State.busyDrop_matchOffset (s : State) :
    (s.busyDrop).matchOffset = s.matchOffset := rfl
@[simp] theorem State.busyDrop_done (s : State) : (s.busyDrop).done = s.done := rfl
@[simp] theorem State.busyDrop_rejected (s : State) : (s.busyDrop).rejected = s.rejected := rfl
@[simp] theorem State.busyDrop_reason (s : State) : (s.busyDrop).reason = s.reason := rfl
@[simp] theorem State.busyDrop_found (s : State) : (s.busyDrop).found = s.found := rfl
@[simp] theorem State.busyDrop_extracted (s : State) : (s.busyDrop).extracted = s.extracted := rfl
@[simp] theorem State.busyDrop_valid (s : State) : (s.busyDrop).valid = s.valid := rfl
@[simp] theorem State.busyDrop_reading (s : State) : (s.busyDrop).reading = s.reading := rfl
@[simp] theorem State.busyDrop_errBusyWrite (s : State) : (s.busyDrop).errBusyWrite = true := rfl
@[simp] theorem State.busyDrop_results (s : State) : (s.busyDrop).results = s.results := rfl
@[simp] theorem State.busyDrop_mem (s : State) : (s.busyDrop).mem = s.mem := rfl
@[simp] theorem State.busyDrop_inputs (s : State) : (s.busyDrop).inputs = s.inputs := rfl
@[simp] theorem State.busyDrop_turns (s : State) : (s.busyDrop).turns = s.turns := rfl
@[simp] theorem State.busyDrop_resp (s : State) : (s.busyDrop).resp = s.resp := rfl
@[simp] theorem State.busyDrop_freeReads (s : State) : (s.busyDrop).freeReads = s.freeReads := rfl

/-! ### the record of a success (R78) -/

@[simp] theorem State.recordComplete_build (s : State) : (s.recordComplete).build = s.build := rfl
@[simp] theorem State.recordComplete_eng (s : State) : (s.recordComplete).eng = .idle := rfl
@[simp] theorem State.recordComplete_invert (s : State) :
    (s.recordComplete).invert = s.invert := rfl
@[simp] theorem State.recordComplete_capLen (s : State) :
    (s.recordComplete).capLen = s.capLen := rfl
@[simp] theorem State.recordComplete_startOffset (s : State) :
    (s.recordComplete).startOffset = s.startOffset := rfl
@[simp] theorem State.recordComplete_matchOffset (s : State) :
    (s.recordComplete).matchOffset = s.matchOffset := rfl
@[simp] theorem State.recordComplete_done (s : State) : (s.recordComplete).done = true := rfl
@[simp] theorem State.recordComplete_rejected (s : State) :
    (s.recordComplete).rejected = false := rfl
@[simp] theorem State.recordComplete_reason (s : State) : (s.recordComplete).reason = .none := rfl
@[simp] theorem State.recordComplete_found (s : State) : (s.recordComplete).found = s.found := rfl
@[simp] theorem State.recordComplete_extracted (s : State) :
    (s.recordComplete).extracted = s.extracted := rfl
@[simp] theorem State.recordComplete_valid (s : State) : (s.recordComplete).valid = s.valid := rfl
@[simp] theorem State.recordComplete_reading (s : State) :
    (s.recordComplete).reading = s.reading := rfl
@[simp] theorem State.recordComplete_errBusyWrite (s : State) :
    (s.recordComplete).errBusyWrite = s.errBusyWrite := rfl
@[simp] theorem State.recordComplete_results (s : State) :
    (s.recordComplete).results = s.results := rfl
@[simp] theorem State.recordComplete_mem (s : State) : (s.recordComplete).mem = s.mem := rfl
@[simp] theorem State.recordComplete_inputs (s : State) :
    (s.recordComplete).inputs = s.inputs := rfl
@[simp] theorem State.recordComplete_turns (s : State) : (s.recordComplete).turns = s.turns := rfl
@[simp] theorem State.recordComplete_resp (s : State) : (s.recordComplete).resp = s.resp := rfl
@[simp] theorem State.recordComplete_freeReads (s : State) :
    (s.recordComplete).freeReads = s.freeReads := rfl

/-! ### the record of a rejection (R78, R115) -/

@[simp] theorem State.recordReject_build (s : State) (c : Reason) :
    (s.recordReject c).build = s.build := rfl
@[simp] theorem State.recordReject_eng (s : State) (c : Reason) :
    (s.recordReject c).eng = .idle := rfl
@[simp] theorem State.recordReject_invert (s : State) (c : Reason) :
    (s.recordReject c).invert = s.invert := rfl
@[simp] theorem State.recordReject_capLen (s : State) (c : Reason) :
    (s.recordReject c).capLen = s.capLen := rfl
@[simp] theorem State.recordReject_startOffset (s : State) (c : Reason) :
    (s.recordReject c).startOffset = s.startOffset := rfl
@[simp] theorem State.recordReject_matchOffset (s : State) (c : Reason) :
    (s.recordReject c).matchOffset = s.matchOffset := rfl
@[simp] theorem State.recordReject_done (s : State) (c : Reason) :
    (s.recordReject c).done = true := rfl
@[simp] theorem State.recordReject_rejected (s : State) (c : Reason) :
    (s.recordReject c).rejected = true := rfl
@[simp] theorem State.recordReject_reason (s : State) (c : Reason) :
    (s.recordReject c).reason = c := rfl
@[simp] theorem State.recordReject_found (s : State) (c : Reason) :
    (s.recordReject c).found = s.found := rfl
@[simp] theorem State.recordReject_extracted (s : State) (c : Reason) :
    (s.recordReject c).extracted = s.extracted := rfl
@[simp] theorem State.recordReject_valid (s : State) (c : Reason) :
    (s.recordReject c).valid = s.valid := rfl
@[simp] theorem State.recordReject_reading (s : State) (c : Reason) :
    (s.recordReject c).reading = s.reading := rfl
@[simp] theorem State.recordReject_errBusyWrite (s : State) (c : Reason) :
    (s.recordReject c).errBusyWrite = s.errBusyWrite := rfl
@[simp] theorem State.recordReject_results (s : State) (c : Reason) :
    (s.recordReject c).results = s.results := rfl
@[simp] theorem State.recordReject_mem (s : State) (c : Reason) :
    (s.recordReject c).mem = s.mem := rfl
@[simp] theorem State.recordReject_inputs (s : State) (c : Reason) :
    (s.recordReject c).inputs = s.inputs := rfl
@[simp] theorem State.recordReject_turns (s : State) (c : Reason) :
    (s.recordReject c).turns = s.turns := rfl
@[simp] theorem State.recordReject_resp (s : State) (c : Reason) :
    (s.recordReject c).resp = s.resp := rfl
@[simp] theorem State.recordReject_freeReads (s : State) (c : Reason) :
    (s.recordReject c).freeReads = s.freeReads := rfl

/-! ### the response of the port (R50) -/

@[simp] theorem State.answer_build (s : State) (v : Word) (e : Bool) :
    (s.answer v e).build = s.build := rfl
@[simp] theorem State.answer_eng (s : State) (v : Word) (e : Bool) :
    (s.answer v e).eng = s.eng := rfl
@[simp] theorem State.answer_invert (s : State) (v : Word) (e : Bool) :
    (s.answer v e).invert = s.invert := rfl
@[simp] theorem State.answer_capLen (s : State) (v : Word) (e : Bool) :
    (s.answer v e).capLen = s.capLen := rfl
@[simp] theorem State.answer_startOffset (s : State) (v : Word) (e : Bool) :
    (s.answer v e).startOffset = s.startOffset := rfl
@[simp] theorem State.answer_matchOffset (s : State) (v : Word) (e : Bool) :
    (s.answer v e).matchOffset = s.matchOffset := rfl
@[simp] theorem State.answer_done (s : State) (v : Word) (e : Bool) :
    (s.answer v e).done = s.done := rfl
@[simp] theorem State.answer_rejected (s : State) (v : Word) (e : Bool) :
    (s.answer v e).rejected = s.rejected := rfl
@[simp] theorem State.answer_reason (s : State) (v : Word) (e : Bool) :
    (s.answer v e).reason = s.reason := rfl
@[simp] theorem State.answer_found (s : State) (v : Word) (e : Bool) :
    (s.answer v e).found = s.found := rfl
@[simp] theorem State.answer_extracted (s : State) (v : Word) (e : Bool) :
    (s.answer v e).extracted = s.extracted := rfl
@[simp] theorem State.answer_valid (s : State) (v : Word) (e : Bool) :
    (s.answer v e).valid = s.valid := rfl
@[simp] theorem State.answer_reading (s : State) (v : Word) (e : Bool) :
    (s.answer v e).reading = s.reading := rfl
@[simp] theorem State.answer_errBusyWrite (s : State) (v : Word) (e : Bool) :
    (s.answer v e).errBusyWrite = s.errBusyWrite := rfl
@[simp] theorem State.answer_results (s : State) (v : Word) (e : Bool) :
    (s.answer v e).results = s.results := rfl
@[simp] theorem State.answer_mem (s : State) (v : Word) (e : Bool) :
    (s.answer v e).mem = s.mem := rfl
@[simp] theorem State.answer_inputs (s : State) (v : Word) (e : Bool) :
    (s.answer v e).inputs = s.inputs := rfl
@[simp] theorem State.answer_turns (s : State) (v : Word) (e : Bool) :
    (s.answer v e).turns = s.turns := rfl
@[simp] theorem State.answer_resp (s : State) (v : Word) (e : Bool) :
    (s.answer v e).resp = some ⟨v, e⟩ := rfl
@[simp] theorem State.answer_freeReads (s : State) (v : Word) (e : Bool) :
    (s.answer v e).freeReads = s.freeReads := rfl

/-! ### the reset edge (R127) -/

@[simp] theorem State.resetEdge_build (s : State) : (s.resetEdge).build = s.build := rfl
@[simp] theorem State.resetEdge_eng (s : State) : (s.resetEdge).eng = .idle := rfl
@[simp] theorem State.resetEdge_invert (s : State) : (s.resetEdge).invert = false := rfl
@[simp] theorem State.resetEdge_capLen (s : State) : (s.resetEdge).capLen = 0 := rfl
@[simp] theorem State.resetEdge_startOffset (s : State) : (s.resetEdge).startOffset = 0 := rfl
@[simp] theorem State.resetEdge_matchOffset (s : State) : (s.resetEdge).matchOffset = 0xFFFF := rfl
@[simp] theorem State.resetEdge_done (s : State) : (s.resetEdge).done = false := rfl
@[simp] theorem State.resetEdge_rejected (s : State) : (s.resetEdge).rejected = false := rfl
@[simp] theorem State.resetEdge_reason (s : State) : (s.resetEdge).reason = .none := rfl
@[simp] theorem State.resetEdge_found (s : State) : (s.resetEdge).found = false := rfl
@[simp] theorem State.resetEdge_extracted (s : State) : (s.resetEdge).extracted = false := rfl
@[simp] theorem State.resetEdge_valid (s : State) : (s.resetEdge).valid = false := rfl
@[simp] theorem State.resetEdge_reading (s : State) : (s.resetEdge).reading = false := rfl
@[simp] theorem State.resetEdge_errBusyWrite (s : State) : (s.resetEdge).errBusyWrite = false := rfl
@[simp] theorem State.resetEdge_results (s : State) : (s.resetEdge).results = Results.zero := rfl
@[simp] theorem State.resetEdge_mem (s : State) : (s.resetEdge).mem = s.clearFrame.mem := rfl
@[simp] theorem State.resetEdge_inputs (s : State) : (s.resetEdge).inputs = s.inputs := rfl
@[simp] theorem State.resetEdge_turns (s : State) : (s.resetEdge).turns = s.turns := rfl
@[simp] theorem State.resetEdge_resp (s : State) : (s.resetEdge).resp = s.resp := rfl
@[simp] theorem State.resetEdge_freeReads (s : State) : (s.resetEdge).freeReads = s.freeReads := rfl

end Sys2Proof.Machine
end

