-- ==== Sys2Proof/Laws/Bus.lean ====
section
/-! SUPPORT. The specification lemmas of the bus and of the schedule: where a register stands, when an
access is legal, what the next action is, and everything a transaction and a step can do. -/

namespace Sys2Proof.Machine

/-! ## The register map (R16) and legality (R51) -/

theorem extractLsb_two_eq_zero_iff (off : Offset) :
    off.extractLsb' 0 2 = 0 ↔ off.toNat % 4 = 0 := by
  constructor
  · intro h
    have := congrArg BitVec.toNat h
    simpa [BitVec.extractLsb'_toNat] using this
  · intro h
    apply BitVec.eq_of_toNat_eq
    simpa [BitVec.extractLsb'_toNat] using h

theorem legal_read_iff (off : Offset) : legal (.read off) = true ↔ off.toNat % 4 = 0 := by
  rw [legal, beq_iff_eq, extractLsb_two_eq_zero_iff]

theorem legal_write_iff (off : Offset) (data : Word) (be : BitVec 4) :
    legal (.write off data be) = true ↔ off.toNat % 4 = 0 ∧ be = 0b1111 := by
  rw [legal, Bool.and_eq_true, beq_iff_eq, beq_iff_eq, extractLsb_two_eq_zero_iff]

theorem regAt_low {off : Offset} (h : off.toNat < 0x40) : regAt off = lowReg (off.toNat / 4) := by
  simp [regAt, h]

theorem regAt_reserved {off : Offset}
    (h : (0x40 ≤ off.toNat ∧ off.toNat < 0x100) ∨ (0x140 ≤ off.toNat ∧ off.toNat < 0x1000)) :
    regAt off = .reserved := by
  unfold regAt
  split
  · omega
  · split
    · rfl
    · split
      · omega
      · split
        · rfl
        · omega

theorem regAt_frameBuf {off : Offset} (h1 : 0x100 ≤ off.toNat) (h2 : off.toNat < 0x140) :
    regAt off = .frameBuf ((off.toNat - 0x100) / 4) := by
  unfold regAt
  rw [if_neg (by omega), if_neg (by omega), if_pos h2]

theorem regAt_capMem {off : Offset} (h : 0x1000 ≤ off.toNat) :
    regAt off = .capMem ((off.toNat - 0x1000) / 4) := by
  unfold regAt
  rw [if_neg (by omega), if_neg (by omega), if_neg (by omega), if_neg (by omega)]

/-- The offsets whose writes are dropped while BUSY (R85). -/
theorem droppedWhileBusy_regAt (off : Offset) (h : off.toNat % 4 = 0) :
    droppedWhileBusy (regAt off) = true ↔
      off = 0x008 ∨ off = 0x00C ∨ off = 0x014 ∨ off = 0x018 ∨ 0x1000 ≤ off.toNat := by
  have key : ∀ n, off = BitVec.ofNat 13 n ↔ off.toNat = n % 2 ^ 13 := fun n =>
    ⟨fun h => by rw [h]; simp, fun h => BitVec.eq_of_toNat_eq (by simpa using h)⟩
  have e8 : off = (0x008 : Offset) ↔ off.toNat = 8 := key 0x008
  have ec : off = (0x00C : Offset) ↔ off.toNat = 12 := key 0x00C
  have e14 : off = (0x014 : Offset) ↔ off.toNat = 20 := key 0x014
  have e18 : off = (0x018 : Offset) ↔ off.toNat = 24 := key 0x018
  by_cases h1 : off.toNat < 0x40
  · rw [regAt_low h1]
    have hw : off.toNat / 4 < 16 := by omega
    have hoff : off.toNat = 4 * (off.toNat / 4) := by omega
    generalize off.toNat / 4 = w at hw hoff
    rw [e8, ec, e14, e18, hoff]
    interval_cases w <;> simp [lowReg, droppedWhileBusy]
  · rw [e8, ec, e14, e18]
    by_cases h2 : off.toNat < 0x1000
    · by_cases h3 : 0x100 ≤ off.toNat ∧ off.toNat < 0x140
      · rw [regAt_frameBuf h3.1 h3.2]
        simp only [droppedWhileBusy, Bool.false_eq_true, false_iff]
        omega
      · rw [regAt_reserved (by omega)]
        simp only [droppedWhileBusy, Bool.false_eq_true, false_iff]
        omega
    · rw [regAt_capMem (by omega)]
      simp only [droppedWhileBusy, true_iff]
      omega

/-! ## The decoder on NOP -/

theorem decode_zero : decode 0 = .nop := by decide

/-- Only the word 0 is NOP (R70). -/
theorem decode_eq_nop_iff (w : Word) : decode w = .nop ↔ w = 0 := by
  constructor
  · intro h
    unfold decode at h
    split at h
    · next hm =>
      have ho : (opField w).toNat = 0 := by
        unfold decodeOp at h
        split at h <;> simp_all
      have h3 := congrArg BitVec.toNat hm
      simp only [mbzField, BitVec.extractLsb'_toNat] at h3
      change _ = 0 at h3
      simp only [opField, BitVec.extractLsb'_toNat] at ho
      apply BitVec.eq_of_toNat_eq
      have := w.isLt
      simp only [Nat.shiftRight_eq_div_pow] at h3 ho
      show w.toNat = 0
      omega
    · simp at h
  · rintro rfl
    exact decode_zero

/-! ## The next action -/

/-- What an action answers. -/
def Action.outcome (a : Action) : Host.Outcome State Fault Refusal :=
  match a with
  | .run i s => exec i s
  | .done s => .next s

@[simp] theorem Action.outcome_run (i : Instr) (s : State) :
    (Action.run i s).outcome = exec i s := rfl

@[simp] theorem Action.outcome_done (s : State) : (Action.done s).outcome = .next s := rfl

theorem step_eq (s : State) : step s = (nextAction s).outcome := by
  unfold step Action.outcome
  rfl

@[simp] theorem afterMove_idle {s : State} (h : s.eng = .idle) (rest : List Stimulus) :
    afterMove s rest = { s with inputs := rest } := by
  simp [afterMove, h]

@[simp] theorem afterMove_busy {s : State} {p : Word} (h : s.eng = .busy p)
    (rest : List Stimulus) :
    afterMove s rest = { s with inputs := rest, turns := s.turns.tail } := by
  simp [afterMove, h]

@[simp] theorem afterMove_eng (s : State) (rest : List Stimulus) :
    (afterMove s rest).eng = s.eng := rfl

/-- A transaction on the move of the host. -/
theorem step_bus {s : State} {op : BusOp} {rest : List Stimulus}
    (h : HostMoves s (.bus op) rest) : step s = (transaction (afterMove s rest) op).outcome := by
  obtain ⟨hi, h⟩ := h
  rw [step_eq]
  cases he : s.eng with
  | idle => simp [nextAction, hostMove, applyStimulus, afterMove, he, hi]
  | busy w =>
    have ht : s.turns.head? = some .host := by simpa [he] using h
    simp [nextAction, hostMove, hostTurn, applyStimulus, afterMove, he, hi, ht]

/-- A poll of WAIT on the move of the host. -/
theorem step_wait {s : State} {rest : List Stimulus} (h : HostMoves s .wait rest) :
    step s = (transaction
      { afterMove s rest with inputs := if s.isBusy then .wait :: rest else rest }
      (.read statusOffset)).outcome := by
  obtain ⟨hi, h⟩ := h
  rw [step_eq]
  cases he : s.eng with
  | idle => simp [nextAction, hostMove, applyStimulus, afterMove, he, hi, State.isBusy]
  | busy w =>
    have ht : s.turns.head? = some .host := by simpa [he] using h
    simp [nextAction, hostMove, hostTurn, applyStimulus, afterMove, he, hi, ht, State.isBusy]

/-- A reset edge on the move of the outside world. -/
theorem step_reset {s : State} {op : Option BusOp} {rest : List Stimulus}
    (h : HostMoves s (.reset op) rest) :
    ∃ r, step s = .next { (afterMove s rest).resetEdge with resp := r } := by
  obtain ⟨hi, h⟩ := h
  rw [step_eq]
  cases he : s.eng with
  | idle =>
    cases op with
    | none => exact ⟨s.resp, by simp [nextAction, hostMove, applyStimulus, afterMove, he, hi,
        State.resetEdge, State.powerUp, State.clearFrame]⟩
    | some op => exact ⟨some ⟨0, false⟩, by simp [nextAction, hostMove, applyStimulus, afterMove,
        he, hi, State.resetEdge, State.powerUp, State.clearFrame, State.answer]⟩
  | busy w =>
    have ht : s.turns.head? = some .host := by simpa [he] using h
    cases op with
    | none => exact ⟨s.resp, by simp [nextAction, hostMove, hostTurn, applyStimulus, afterMove,
        he, hi, ht, State.resetEdge, State.powerUp, State.clearFrame]⟩
    | some op => exact ⟨some ⟨0, false⟩, by simp [nextAction, hostMove, hostTurn, applyStimulus,
        afterMove, he, hi, ht, State.resetEdge, State.powerUp, State.clearFrame, State.answer]⟩

/-- The completion step: the engine's turn, or nothing presented (R78). -/
theorem step_engine {s : State} {w : Word} (he : s.eng = .busy w)
    (h : s.turns.head? ≠ some .host ∨ s.inputs = []) :
    step s = exec (decode w) { s with turns := s.turns.tail } := by
  have ht : hostTurn s = false := by
    rcases h with h | h <;> simp [hostTurn, h]
  simp [step_eq, nextAction, he, ht]

/-- While IDLE with nothing presented, nothing happens. -/
theorem step_quiet {s : State} (he : s.eng = .idle) (hi : s.inputs = []) : step s = .next s := by
  simp [step_eq, nextAction, hostMove, he, hi]

/-- Who makes a step: nobody, the outside world, or the engine. -/
theorem step_who (s : State) :
    (s.eng = .idle ∧ s.inputs = []) ∨ (∃ st rest, HostMoves s st rest) ∨
      ∃ w, s.eng = .busy w ∧ (s.turns.head? ≠ some .host ∨ s.inputs = []) := by
  cases he : s.eng with
  | idle =>
    cases hi : s.inputs with
    | nil => exact .inl ⟨rfl, rfl⟩
    | cons st rest => exact .inr (.inl ⟨st, rest, hi, .inl he⟩)
  | busy w =>
    cases hi : s.inputs with
    | nil => exact .inr (.inr ⟨w, rfl, .inr rfl⟩)
    | cons st rest =>
      by_cases ht : s.turns.head? = some .host
      · exact .inr (.inl ⟨st, rest, hi, .inr ht⟩)
      · exact .inr (.inr ⟨w, rfl, .inl ht⟩)

/-- A legal read on the move of the host. -/
theorem step_read {s : State} {off : Offset} {rest : List Stimulus}
    (h : HostMoves s (.bus (.read off)) rest) (ha : off.toNat % 4 = 0) :
    step s = .next (readReg (afterMove s rest) (regAt off)) := by
  rw [step_bus h, transaction, if_pos ((legal_read_iff off).2 ha)]
  rfl

/-- A legal write on the move of the host. -/
theorem step_write {s : State} {off : Offset} {data : Word} {rest : List Stimulus}
    (h : HostMoves s (.bus (.write off data 0b1111)) rest) (ha : off.toNat % 4 = 0) :
    step s = (writeReg ((afterMove s rest).answer 0 false) (regAt off) data).outcome := by
  rw [step_bus h, transaction, if_pos ((legal_write_iff off data _).2 ⟨ha, rfl⟩)]
  rfl

/-- An illegal access on the move of the host (R52, R117). -/
theorem step_busError {s : State} {op : BusOp} {rest : List Stimulus}
    (h : HostMoves s (.bus op) rest) (hl : legal op = false) :
    step s = .next ((afterMove s rest).answer 0 true) := by
  rw [step_bus h, transaction, if_neg (by simp [hl])]
  rfl

theorem readReg_idle {s : State} (he : s.eng = .idle) (r : Reg) :
    readReg s r = s.answer (regValue s r) false := by
  simp [readReg, State.isBusy, he]

theorem readReg_busy_open {s : State} {p : Word} (he : s.eng = .busy p) {r : Reg}
    (hr : openWhileBusy s.build r = true) :
    readReg s r = State.answer { s with freeReads := s.freeReads + 1 }
      (busyValue s r (Config.busyRead s.freeReads)) false := by
  simp [readReg, State.isBusy, he, hr]

theorem readReg_busy_closed {s : State} {r : Reg} (hr : openWhileBusy s.build r = false) :
    readReg s r = s.answer (regValue s r) false := by
  simp [readReg, hr]

/-- A register that is not open while BUSY reads as it would with the engine IDLE (R86). -/
theorem regValue_closed {s : State} {r : Reg} (hr : openWhileBusy s.build r = false)
    (e : Engine) : regValue { s with eng := e } r = regValue s r := by
  cases r <;> first | rfl | simp [openWhileBusy] at hr

theorem writeReg_dropped {s : State} {p : Word} (he : s.eng = .busy p) {r : Reg} (data : Word)
    (hr : droppedWhileBusy r = true) : writeReg s r data = .done s.busyDrop := by
  simp [writeReg, State.isBusy, he, hr]

theorem writeReg_idle {s : State} (he : s.eng = .idle) (r : Reg) (data : Word) :
    writeReg s r data = writeRule s r data := by
  simp [writeReg, State.isBusy, he]

theorem writeReg_kept {s : State} {r : Reg} (data : Word) (hr : droppedWhileBusy r = false) :
    writeReg s r data = writeRule s r data := by
  simp [writeReg, hr]

theorem issue_nop (s : State) : issue s 0 = .run .nop s := by
  simp only [issue, decode_zero]

theorem issue_other (s : State) {w : Word} (h : w ≠ 0) : issue s w = .done (s.beginCommand w) := by
  have hd : decode w ≠ .nop := fun hd => h ((decode_eq_nop_iff w).1 hd)
  unfold issue
  split
  · contradiction
  · rfl

/-! ## What a transaction can do -/

/-- Everything a transaction can do to the block. -/
inductive TransactionEffect (s t : State) : Prop where
  /-- It is answered and nothing else changes: a bus error, a read, an ignored write, a NOP. -/
  | answered (v : Word) (e : Bool) (ht : t = s.answer v e)
  /-- It reads an open value while BUSY (R86). -/
  | openRead (v : Word) (hb : s.isBusy = true)
      (ht : t = State.answer { s with freeReads := s.freeReads + 1 } v false)
  /-- It is dropped while BUSY (R85). -/
  | dropped (hb : s.isBusy = true) (ht : t = (s.answer 0 false).busyDrop)
  /-- It writes STATUS (R30). -/
  | clearsErr (e : Bool) (hle : e = true → s.errBusyWrite = true)
      (ht : t = { s.answer 0 false with errBusyWrite := e })
  /-- It issues a command (R77). -/
  | issued (w : Word) (he : s.eng = .idle) (hw : decode w ≠ .nop)
      (ht : t = (s.answer 0 false).beginCommand w)
  /-- It writes CTRL, CAP_LEN or START_OFFSET (R87). -/
  | inputWrite (inv : Bool) (len start : BitOffset) (he : s.eng = .idle)
      (hlen : len = s.capLen ∨ ∃ v, len = saturate s.build v)
      (ht : t = State.inputWritten
        { s.answer 0 false with invert := inv, capLen := len, startOffset := start })
  /-- It writes a slot of CAP_MEM (R55, R87). -/
  | captureWrite (w : Nat) (data : Word) (he : s.eng = .idle)
      (ht : t = (capWordWrite (s.answer 0 false) w data).inputWritten)

theorem isBusy_eq_false_iff (s : State) : s.isBusy = false ↔ s.eng = .idle := by
  cases h : s.eng <;> simp [State.isBusy, h]

theorem isBusy_eq_true_iff (s : State) : s.isBusy = true ↔ ∃ w, s.eng = .busy w := by
  cases h : s.eng <;> simp [State.isBusy, h]

theorem readReg_effect (s : State) (r : Reg) : TransactionEffect s (readReg s r) := by
  unfold readReg
  split
  · next h => exact .openRead _ (by simp_all) rfl
  · exact .answered _ _ rfl

/-- A legal write either runs a NOP or is complete, with one of the effects above. -/
theorem writeReg_effect (s : State) (r : Reg) (data : Word) :
    (s.eng = .idle ∧ r = .cmd ∧ decode data = .nop ∧
      writeReg (s.answer 0 false) r data = .run .nop (s.answer 0 false)) ∨
    ∃ t, writeReg (s.answer 0 false) r data = .done t ∧ TransactionEffect s t := by
  unfold writeReg
  split
  · next h =>
    exact .inr ⟨_, rfl, .dropped (by simp_all [State.isBusy]) rfl⟩
  · next h =>
    have hidle : droppedWhileBusy r = true → s.eng = .idle := by
      intro hr
      rw [← isBusy_eq_false_iff]
      simpa [hr, State.isBusy] using h
    cases r with
    | cmd =>
      have he := hidle rfl
      simp only [writeRule, issue]
      split
      · next hd => exact .inl ⟨he, trivial, hd, rfl⟩
      · next hd => exact .inr ⟨_, rfl, .issued data he (fun h => hd h) rfl⟩
    | ctrl =>
      exact .inr ⟨_, rfl, .inputWrite (data.getLsbD 0) s.capLen s.startOffset (hidle rfl)
        (.inl rfl) rfl⟩
    | capLen =>
      exact .inr ⟨_, rfl, .inputWrite s.invert _ s.startOffset (hidle rfl)
        (.inr ⟨_, rfl⟩) rfl⟩
    | startOffset =>
      exact .inr ⟨_, rfl, .inputWrite s.invert s.capLen _ (hidle rfl) (.inl rfl) rfl⟩
    | capMem w => exact .inr ⟨_, rfl, .captureWrite w data (hidle rfl) rfl⟩
    | status =>
      exact .inr ⟨_, rfl, .clearsErr _ (by simp; tauto) rfl⟩
    | _ => exact .inr ⟨_, rfl, .answered 0 false rfl⟩

/-- Everything a transaction can do (R50 to R55, R77, R85 to R87). -/
theorem transaction_effect {s t : State} {op : BusOp}
    (h : (transaction s op).outcome = .next t) : TransactionEffect s t := by
  unfold transaction at h
  split at h
  · cases op with
    | read off =>
      obtain rfl : readReg s (regAt off) = t := by simpa [perform] using h
      exact readReg_effect _ _
    | write off data be =>
      rcases writeReg_effect s (regAt off) data with ⟨_, _, _, hw⟩ | ⟨u, hw, hu⟩
      · rw [perform, hw] at h
        obtain rfl : s.answer 0 false = t := by simpa [exec, execNop] using h
        exact .answered _ _ rfl
      · rw [perform, hw] at h
        obtain rfl : u = t := by simpa using h
        exact hu
  · obtain rfl : s.answer 0 true = t := by simpa using h
    exact .answered _ _ rfl

/-- A read, legal or not, changes only the port's response and the counter of free reads (R59). -/
theorem transaction_read {s t : State} {off : Offset}
    (h : (transaction s (.read off)).outcome = .next t) :
    t = { s with resp := t.resp, freeReads := t.freeReads } := by
  unfold transaction at h
  split at h
  · obtain rfl : readReg s (regAt off) = t := by simpa [perform] using h
    unfold readReg
    split <;> rfl
  · obtain rfl : s.answer 0 true = t := by simpa using h
    rfl

/-- A transaction always answers a next state. -/
theorem transaction_next (s : State) (op : BusOp) :
    ∃ t, (transaction s op).outcome = .next t := by
  unfold transaction
  split
  · cases op with
    | read off => exact ⟨_, rfl⟩
    | write off data be =>
      rcases writeReg_effect s (regAt off) data with ⟨_, _, _, hw⟩ | ⟨u, hw, _⟩
      · exact ⟨s.answer 0 false, by rw [perform, hw]; rfl⟩
      · exact ⟨u, by rw [perform, hw]; rfl⟩
  · exact ⟨_, rfl⟩

/-! ## What a step can do -/

/-- Everything a step can do: nothing, a transaction or a poll of STATUS, a reset edge, or the
completion of the pending command. -/
inductive StepEffect (s t : State) : Prop where
  | quiet (he : s.eng = .idle) (hi : s.inputs = []) (ht : t = s)
  | bus (op : BusOp) (rest : List Stimulus) (hm : HostMoves s (.bus op) rest)
      (ht : (transaction (afterMove s rest) op).outcome = .next t)
      (heff : TransactionEffect (afterMove s rest) t)
  | wait (rest : List Stimulus) (hm : HostMoves s .wait rest)
      (ht : (transaction { afterMove s rest with
        inputs := if s.isBusy then .wait :: rest else rest } (.read statusOffset)).outcome = .next t)
      (heff : TransactionEffect { afterMove s rest with
        inputs := if s.isBusy then .wait :: rest else rest } t)
  | reset (op : Option BusOp) (rest : List Stimulus) (hm : HostMoves s (.reset op) rest)
      (r : Option Response) (ht : t = { (afterMove s rest).resetEdge with resp := r })
  | engine (w : Word) (he : s.eng = .busy w)
      (hm : s.turns.head? ≠ some .host ∨ s.inputs = [])
      (ht : exec (decode w) { s with turns := s.turns.tail } = .next t)

/-- The inversion lemma of `step`. -/
theorem step_cases {s t : State} (h : step s = .next t) : StepEffect s t := by
  rcases step_who s with ⟨he, hi⟩ | ⟨st, rest, hm⟩ | ⟨w, he, hm⟩
  · rw [step_quiet he hi] at h
    exact .quiet he hi (by simpa using h.symm)
  · cases st with
    | bus op =>
      rw [step_bus hm] at h
      exact .bus op rest hm h (transaction_effect h)
    | wait =>
      rw [step_wait hm] at h
      exact .wait rest hm h (transaction_effect h)
    | reset op =>
      obtain ⟨r, hr⟩ := step_reset hm
      rw [hr] at h
      exact .reset op rest hm r (by simpa using h.symm)
  · rw [step_engine he hm] at h
    exact .engine w he hm h

end Sys2Proof.Machine
end

