-- ==== Sys2Proof/Machine/Assembly.lean ====
section
/-! DEFINITION. The text of host assembly (R74, R75): one line of characters to the line it stands for,
and the boot sequence of R130. -/

namespace Sys2Proof.Machine

/-! ## Words of a line -/

/-- The line without its comment: `;` starts one (R74). -/
def stripComment : List Char → List Char
  | [] => []
  | c :: cs => if c = ';' then [] else c :: stripComment cs

/-- Commas and blanks stand between the words of a line. -/
def isSeparator (c : Char) : Bool := c = ' ' || c = '\t' || c = ','

/-- The words of a line, `cur` being the reversed start of the word being read. -/
def wordsFrom : (cur line : List Char) → List (List Char)
  | cur, [] => if cur.isEmpty then [] else [cur.reverse]
  | cur, c :: cs =>
    if isSeparator c then
      if cur.isEmpty then wordsFrom [] cs else cur.reverse :: wordsFrom [] cs
    else wordsFrom (c :: cur) cs

/-- The value of a digit in a base up to 16. -/
def digitValue (base : Nat) (c : Char) : Option Nat :=
  let n := c.toNat
  let v :=
    if 48 ≤ n ∧ n ≤ 57 then n - 48
    else if 65 ≤ n ∧ n ≤ 70 then n - 55
    else if 97 ≤ n ∧ n ≤ 102 then n - 87
    else 16
  if v < base then some v else none

/-- The digits of a number, most significant first. -/
def digits (base acc : Nat) : List Char → Option Nat
  | [] => some acc
  | c :: cs =>
    match digitValue base c with
    | none => none
    | some v => digits base (base * acc + v) cs

/-- A number: hexadecimal with `0x`, or decimal (R74); `0b` is binary, as the spec writes byte
enables. -/
def number : List Char → Option Nat
  | [] => none
  | ['0', 'x'] => none
  | ['0', 'b'] => none
  | '0' :: 'x' :: cs => digits 16 0 cs
  | '0' :: 'b' :: cs => digits 2 0 cs
  | cs => digits 10 0 cs

/-- A number that fits into `n` bits. -/
def sized (n : Nat) (cs : List Char) : Option (BitVec n) :=
  match number cs with
  | none => none
  | some v => if v < 2 ^ n then some (BitVec.ofNat n v) else none

/-! ## Names -/

/-- The register names, which may stand for their offsets (R16, R74). -/
def registerOffset (name : List Char) : Option Nat :=
  match String.ofList name with
  | "CONFIG" => some 0x000
  | "CAP_SIZE" => some 0x004
  | "CTRL" => some 0x008
  | "CMD" => some 0x00C
  | "STATUS" => some 0x010
  | "CAP_LEN" => some 0x014
  | "START_OFFSET" => some 0x018
  | "MATCH_OFFSET" => some 0x01C
  | "DEVICE" => some 0x020
  | "TEMPERATURE" => some 0x024
  | "HUMIDITY" => some 0x028
  | "RAIN" => some 0x02C
  | "RAIN_VOLUME" => some 0x030
  | "WIND_SPEED" => some 0x034
  | "WIND_DIR" => some 0x038
  | "WIND_LABEL" => some 0x03C
  | "FRAME_BUF" => some 0x100
  | "CAP_MEM" => some 0x1000
  | _ => none

/-- The names that R74 gives the form `name+n`: those of the two memories. -/
def memoryOffset (name : List Char) : Option Nat :=
  match String.ofList name with
  | "FRAME_BUF" => registerOffset name
  | "CAP_MEM" => registerOffset name
  | _ => none

/-- An offset: a number, a register name, or `CAP_MEM+n` and `FRAME_BUF+n` (R74). `name` is the
reversed part of the word before a `+`. -/
def offsetFrom : (name word : List Char) → Option Nat
  | name, [] =>
    match number name.reverse with
    | some v => some v
    | none => registerOffset name.reverse
  | name, c :: cs =>
    if c = '+' then
      match memoryOffset name.reverse, number cs with
      | some base, some n => some (base + n)
      | _, _ => none
    else offsetFrom (c :: name) cs

/-- An offset of the 13-bit register window. -/
def offset (word : List Char) : Option Offset :=
  match offsetFrom [] word with
  | none => none
  | some v => if v < 2 ^ 13 then some (BitVec.ofNat 13 v) else none

/-- The word of a command: a mnemonic's (R70, R75), or a raw word. -/
def commandWord (word : List Char) : Option Word :=
  match String.ofList word with
  | "NOP" => some (encode .nop)
  | "DECODE" => some (encode .decode)
  | "LOCATE" => some (encode .locate)
  | "EXTRACT" => some (encode .extract)
  | "VALIDATE" => some (encode .validate)
  | "FIELDS" => some (encode .fields)
  | "CLEAR" => some (encode .clear)
  | _ => sized 32 word

/-- The words of the CAP_MEM window (R16): the words a `LOADCAP` can write (R75). -/
def windowWords : Nat := 1024

/-- The data of `LOADCAP`, each a word. -/
def dataWords : List (List Char) → Option (List Word)
  | [] => some []
  | w :: ws =>
    match sized 32 w, dataWords ws with
    | some v, some vs => some (v :: vs)
    | _, _ => none

/-! ## Lines -/

/-- `WR off, data`. -/
def parseWr (off data : List Char) : Option HostLine :=
  match offset off, sized 32 data with
  | some o, some d => some (.wr o d)
  | _, _ => none

/-- `WRB off, data, be`. -/
def parseWrb (off data be : List Char) : Option HostLine :=
  match offset off, sized 32 data, sized 4 be with
  | some o, some d, some b => some (.wrb o d b)
  | _, _, _ => none

/-- `LOADCAP w0, ..., wn`. DESIGN CHOICE, notes/assumptions/23.md: R75 gives at least `w0`, so a
`LOADCAP` without a word is no line, and one of more words than the window holds is refused, since
`0x1000 + 4n` is then no offset of the window. -/
def parseLoadcap (ws : List (List Char)) : Option HostLine :=
  if ws.isEmpty || decide (windowWords < ws.length) then none else (dataWords ws).map .loadcap

/-- `INVERT b`, b = 0 or 1 in any form of a number (R74, R75). -/
def parseInvert (b : List Char) : Option HostLine := (sized 1 b).map fun v => .invert (v == 1#1)

/-- The line that the words of a text line stand for, if any (R74, R75). -/
def parseWords : List (List Char) → Option HostLine
  | [] => none
  | op :: args =>
    match String.ofList op, args with
    | "WR", [o, d] => parseWr o d
    | "WRB", [o, d, b] => parseWrb o d b
    | "RD", [o] => (offset o).map .rd
    | "CMD", [m] => (commandWord m).map .cmd
    | "WAIT", [] => some .wait
    | "RUN", [m] => (commandWord m).map .run
    | "LOADCAP", ws => parseLoadcap ws
    | "SETLEN", [n] => (sized 32 n).map .setlen
    | "SETSTART", [n] => (sized 32 n).map .setstart
    | "INVERT", [b] => parseInvert b
    | "CLRERR", [] => some .clrerr
    | _, _ => none

/-- A host program from its text, one line a list of characters; none where a line is no line of host
assembly. A line with nothing but blanks and a comment stands for nothing. -/
def assemble : List (List Char) → Option (List HostLine)
  | [] => some []
  | l :: ls =>
    match wordsFrom [] (stripComment l), assemble ls with
    | _, none => none
    | [], some rest => some rest
    | ws, some rest =>
      match parseWords ws with
      | none => none
      | some line => some (line :: rest)

/-! ## Boot -/

/-- The boot sequence of R130, with its optional reads: learn the build, load the capture, its length,
polarity and search start, run DECODE, and read STATUS, the result registers and the raw words. -/
def bootSequence (ws : List Word) (len start : Word) (inverted : Bool) : List HostLine :=
  [.rd 0x000, .rd 0x004, .loadcap ws, .setlen len, .invert inverted, .setstart start, .run 1,
    .rd 0x010, .rd 0x020, .rd 0x024, .rd 0x028, .rd 0x02C, .rd 0x030, .rd 0x034, .rd 0x038,
    .rd 0x03C, .rd 0x100, .rd 0x104, .rd 0x108]

end Sys2Proof.Machine
end

