-- ==== Sys2Proof/Laws/HostProgram.lean ====
section
/-! SUPPORT. What LOADCAP presents to the block (R75): which word goes to which offset, and that the
offsets of a capture that fits the window do not wrap. -/

namespace Sys2Proof.Machine

/-- The write of word `i` of `LOADCAP`, if there is one, goes to the offset `off + 4i`. -/
theorem loadWords_getElem? (off : Offset) (ws : List Word) (i : Nat) :
    (loadWords off ws)[i]? = ws[i]?.map (fullWrite (off + BitVec.ofNat 13 (4 * i))) := by
  induction ws generalizing off i with
  | nil => rfl
  | cons w ws ih =>
    cases i with
    | zero => simp [loadWords]
    | succ i =>
      have step : off + 4 + BitVec.ofNat 13 (4 * i) = off + BitVec.ofNat 13 (4 * (i + 1)) := by
        rw [BitVec.add_assoc, Nat.mul_succ, Nat.add_comm (4 * i) 4, BitVec.ofNat_add]
        rfl
      rw [loadWords, List.getElem?_cons_succ, List.getElem?_cons_succ, ih, step]

/-- The offset of a word that the window holds is its place in CAP_MEM: nothing wraps. -/
theorem capMem_offset_toNat (i : Nat) (h : i < windowWords) :
    ((0x1000 : Offset) + BitVec.ofNat 13 (4 * i)).toNat = 0x1000 + 4 * i := by
  unfold windowWords at h
  have base : (0x1000 : Offset).toNat = 0x1000 := rfl
  rw [BitVec.toNat_add, BitVec.toNat_ofNat, base]
  omega

/-- A `LOADCAP` that the assembler accepts has at least one word and no more than the window holds. -/
theorem parseLoadcap_some {args : List (List Char)} {line : HostLine}
    (h : parseLoadcap args = some line) :
    ∃ ws, line = .loadcap ws ∧ dataWords args = some ws ∧ 0 < args.length ∧
      args.length ≤ windowWords := by
  simp only [parseLoadcap, Bool.or_eq_true, List.isEmpty_iff, decide_eq_true_eq] at h
  split at h
  · cases h
  · next hn =>
    obtain ⟨ws, hw, rfl⟩ := Option.map_eq_some_iff.mp h
    have := List.length_pos_iff.mpr (fun e => hn (.inl e))
    exact ⟨ws, rfl, hw, this, by omega⟩

end Sys2Proof.Machine
end

