-- ==== Sys2Proof/Laws/Memory.lean ====
section
/-! SUPPORT. The laws of the memory operations: a read after a write, the bytes a write leaves alone,
and that every operation keeps the canonical form. -/

namespace Sys2Proof.Machine

/-! ## Looking up -/

theorem Memory.lookup_insert (m : Memory) (a b : Nat) (v : Byte) :
    (m.insert a v).lookup b = if b = a then some v else m.lookup b := by
  induction m with
  | nil => simp [Memory.insert, Memory.lookup, eq_comm]
  | cons c m ih =>
    simp only [Memory.insert]
    split
    · simp [Memory.lookup, eq_comm]
    · split
      · next h =>
        subst h
        by_cases hb : b = c.1
        · simp [Memory.lookup, hb]
        · simp [Memory.lookup, hb, Ne.symm hb]
      · next h =>
        by_cases hb : c.1 = b
        · simp [Memory.lookup, hb, show b ≠ a by omega]
        · simp [Memory.lookup, hb, ih]

theorem Memory.lookup_erase (m : Memory) (a b : Nat) :
    (m.erase a).lookup b = if b = a then none else m.lookup b := by
  induction m with
  | nil => simp [Memory.erase, Memory.lookup]
  | cons c m ih =>
    simp only [Memory.erase]
    split
    · next h =>
      rw [ih]
      by_cases hb : b = a
      · simp [hb]
      · simp [Memory.lookup, hb, show c.1 ≠ b by omega]
    · next h =>
      by_cases hb : c.1 = b
      · simp [Memory.lookup, hb, show b ≠ a by omega]
      · simp [Memory.lookup, hb, ih]

/-! ## Reading after writing -/

/-- A read after a write of one byte. -/
theorem Memory.read_write (m : Memory) (a b : Nat) (v : Byte) :
    (m.write a v).read b = if b = a then v else m.read b := by
  unfold Memory.write
  split
  · next h =>
    by_cases hb : b = a
    · simp [Memory.read, Memory.lookup_erase, hb, h]
    · simp [Memory.read, Memory.lookup_erase, hb]
  · by_cases hb : b = a
    · simp [Memory.read, Memory.lookup_insert, hb]
    · simp [Memory.read, Memory.lookup_insert, hb]

/-- A read after a write of several bytes, outside them. -/
theorem Memory.read_writeBytes_other (vs : List Byte) (m : Memory) (a b : Nat)
    (h : b < a ∨ a + vs.length ≤ b) : (m.writeBytes a vs).read b = m.read b := by
  induction vs generalizing m a with
  | nil => rfl
  | cons v vs ih =>
    simp only [List.length_cons] at h
    rw [Memory.writeBytes, ih _ _ (by omega), Memory.read_write, if_neg (by omega)]

/-- A read after a write of several bytes, among them. -/
theorem Memory.read_writeBytes_inside (vs : List Byte) (m : Memory) (a i : Nat)
    (h : i < vs.length) : (m.writeBytes a vs).read (a + i) = vs[i] := by
  induction vs generalizing m a i with
  | nil => simp at h
  | cons v vs ih =>
    rw [Memory.writeBytes]
    cases i with
    | zero => rw [Memory.read_writeBytes_other _ _ _ _ (by omega), Memory.read_write]; simp
    | succ i =>
      have h' : i < vs.length := by simpa using h
      rw [show a + (i + 1) = a + 1 + i by omega, ih _ _ _ h']
      simp

/-! ## The canonical form -/

/-- Every cell listed after an insertion is the new one or an old one. -/
theorem Memory.mem_insert {m : Memory} {a : Nat} {v : Byte} {c : Host.Cell}
    (h : c ∈ m.insert a v) : c = (a, v) ∨ c ∈ m := by
  induction m with
  | nil => simpa [Memory.insert] using h
  | cons d m ih =>
    simp only [Memory.insert] at h
    split at h
    · simpa using h
    · split at h
      · rcases List.mem_cons.1 h with h | h
        · exact .inl h
        · exact .inr (List.mem_cons_of_mem _ h)
      · rcases List.mem_cons.1 h with h | h
        · exact .inr (h ▸ List.mem_cons_self)
        · exact (ih h).imp_right (List.mem_cons_of_mem _)

theorem Memory.mem_erase {m : Memory} {a : Nat} {c : Host.Cell} (h : c ∈ m.erase a) : c ∈ m := by
  induction m with
  | nil => simp [Memory.erase] at h
  | cons d m ih =>
    simp only [Memory.erase] at h
    split at h
    · exact List.mem_cons_of_mem _ (ih h)
    · rcases List.mem_cons.1 h with h | h
      · exact h ▸ List.mem_cons_self
      · exact List.mem_cons_of_mem _ (ih h)

/-- Every cell listed after a write is the written one or an old one. -/
theorem Memory.mem_write {m : Memory} {a : Nat} {v : Byte} {c : Host.Cell}
    (h : c ∈ m.write a v) : c = (a, v) ∨ c ∈ m := by
  unfold Memory.write at h
  split at h
  · exact .inr (Memory.mem_erase h)
  · exact Memory.mem_insert h

theorem Memory.pairwise_insert {m : Memory} (a : Nat) (v : Byte)
    (h : m.Pairwise (fun c d => c.1 < d.1)) :
    (m.insert a v).Pairwise (fun c d => c.1 < d.1) := by
  induction m with
  | nil => simp [Memory.insert]
  | cons c m ih =>
    have hc := List.pairwise_cons.1 h
    simp only [Memory.insert]
    split
    · next ha =>
      refine List.pairwise_cons.2 ⟨fun d hd => ?_, h⟩
      rcases List.mem_cons.1 hd with hd | hd
      · exact hd ▸ ha
      · exact Nat.lt_trans ha (hc.1 d hd)
    · split
      · next ha => exact List.pairwise_cons.2 ⟨fun d hd => ha ▸ hc.1 d hd, hc.2⟩
      · next h1 h2 =>
        refine List.pairwise_cons.2 ⟨fun d hd => ?_, ih hc.2⟩
        rcases Memory.mem_insert hd with hd | hd
        · subst hd
          show c.1 < a
          omega
        · exact hc.1 d hd

theorem Memory.pairwise_erase {m : Memory} (a : Nat) (h : m.Pairwise (fun c d => c.1 < d.1)) :
    (m.erase a).Pairwise (fun c d => c.1 < d.1) := by
  induction m with
  | nil => exact h
  | cons c m ih =>
    have hc := List.pairwise_cons.1 h
    simp only [Memory.erase]
    split
    · exact ih hc.2
    · exact List.pairwise_cons.2 ⟨fun d hd => hc.1 d (Memory.mem_erase hd), ih hc.2⟩

/-- A write keeps the canonical form. -/
theorem Memory.wf_write {m : Memory} (a : Nat) (v : Byte) (h : m.wf) : (m.write a v).wf := by
  unfold Memory.write
  split
  · exact ⟨Memory.pairwise_erase a h.1, fun c hc => h.2 c (Memory.mem_erase hc)⟩
  · next hb =>
    refine ⟨Memory.pairwise_insert a v h.1, fun c hc => ?_⟩
    rcases Memory.mem_insert hc with hc | hc
    · exact hc ▸ hb
    · exact h.2 c hc

/-- A write of several bytes keeps the canonical form. -/
theorem Memory.wf_writeBytes (vs : List Byte) {m : Memory} (a : Nat) (h : m.wf) :
    (m.writeBytes a vs).wf := by
  induction vs generalizing m a with
  | nil => exact h
  | cons v vs ih => exact ih _ (Memory.wf_write a v h)

/-- A write of a word keeps the canonical form. -/
theorem Memory.wf_writeWord {m : Memory} (a : Nat) (w : Word) (h : m.wf) : (m.writeWord a w).wf :=
  Memory.wf_writeBytes _ a h

/-- The memory of `State.reset`, and of every build at power-up, is in canonical form. -/
theorem State.powerUp_wf (b : Build) : (State.powerUp b).mem.wf := by
  simp [State.powerUp, Memory.wf]

/-- Every cell listed after a write of several bytes is an old one or lies among the written
addresses. -/
theorem Memory.mem_writeBytes {vs : List Byte} {m : Memory} {a : Nat} {c : Host.Cell}
    (h : c ∈ m.writeBytes a vs) : c ∈ m ∨ (a ≤ c.1 ∧ c.1 < a + vs.length) := by
  induction vs generalizing m a with
  | nil => exact .inl h
  | cons v vs ih =>
    rcases ih h with h | h
    · rcases Memory.mem_write h with h | h
      · subst h
        exact .inr ⟨Nat.le_refl _, by simp⟩
      · exact .inl h
    · refine .inr ⟨by omega, ?_⟩
      simp only [List.length_cons]
      omega

/-! ## Equal memories are equal data -/

theorem Memory.lookup_eq_none {m : Memory} {a : Nat} (h : ∀ c ∈ m, a < c.1) : m.lookup a = none := by
  induction m with
  | nil => rfl
  | cons c m ih =>
    have hc := h c List.mem_cons_self
    rw [Memory.lookup, if_neg (by omega)]
    exact ih fun d hd => h d (List.mem_cons_of_mem _ hd)

theorem Memory.lookup_head_ne_none (c : Host.Cell) (m : Memory) :
    Memory.lookup (c :: m) c.1 ≠ none := by
  simp [Memory.lookup]

/-- Two memories in canonical form that list the same byte at every address are equal. -/
theorem Memory.ext_lookup {m n : Memory} (hm : m.wf) (hn : n.wf)
    (h : ∀ a, m.lookup a = n.lookup a) : m = n := by
  replace hm := hm.1
  replace hn := hn.1
  induction m generalizing n with
  | nil =>
    cases n with
    | nil => rfl
    | cons d n => exact absurd (h d.1).symm (Memory.lookup_head_ne_none d n)
  | cons c m ih =>
    cases n with
    | nil => exact absurd (h c.1) (Memory.lookup_head_ne_none c m)
    | cons d n =>
      have hc := List.pairwise_cons.1 hm
      have hd := List.pairwise_cons.1 hn
      have below : ∀ {x y : Host.Cell} {l : Memory}, (∀ e ∈ l, y.1 < e.1) → x.1 < y.1 →
          Memory.lookup (y :: l) x.1 = none := fun hl hxy =>
        Memory.lookup_eq_none fun e he => by
          rcases List.mem_cons.1 he with he | he
          · exact he ▸ hxy
          · exact Nat.lt_trans hxy (hl e he)
      have h1 : c.1 = d.1 := by
        rcases Nat.lt_trichotomy c.1 d.1 with hlt | he | hlt
        · exact absurd ((h c.1).trans (below hd.1 hlt)) (Memory.lookup_head_ne_none c m)
        · exact he
        · exact absurd ((h d.1).symm.trans (below hc.1 hlt)) (Memory.lookup_head_ne_none d n)
      have h2 : c.2 = d.2 := by simpa [Memory.lookup, h1] using h c.1
      obtain rfl : c = d := Prod.ext h1 h2
      rw [ih (fun a => ?_) hc.2 hd.2]
      by_cases ha : c.1 = a
      · rw [Memory.lookup_eq_none fun e he => ha ▸ hc.1 e he,
          Memory.lookup_eq_none fun e he => ha ▸ hd.1 e he]
      · simpa [Memory.lookup, ha] using h a

theorem Memory.lookup_write (m : Memory) (a b : Nat) (v : Byte) :
    (m.write a v).lookup b =
      if b = a then (if Memory.blank a = some v then none else some v) else m.lookup b := by
  unfold Memory.write
  by_cases h : Memory.blank a = some v
  · simp [h, Memory.lookup_erase]
  · simp [h, Memory.lookup_insert]

/-- Outside the written bytes the listing stays. -/
theorem Memory.lookup_writeBytes_other (vs : List Byte) (m : Memory) (a b : Nat)
    (h : b < a ∨ a + vs.length ≤ b) : (m.writeBytes a vs).lookup b = m.lookup b := by
  induction vs generalizing m a with
  | nil => rfl
  | cons v vs ih =>
    simp only [List.length_cons] at h
    rw [Memory.writeBytes, ih _ _ (by omega), Memory.lookup_write, if_neg (by omega)]

/-- Among the written bytes the listing is the same whatever the memory held before. -/
theorem Memory.lookup_writeBytes_inside (vs : List Byte) (m n : Memory) (a b : Nat)
    (h1 : a ≤ b) (h2 : b < a + vs.length) :
    (m.writeBytes a vs).lookup b = (n.writeBytes a vs).lookup b := by
  induction vs generalizing m n a with
  | nil => simp at h2; omega
  | cons v vs ih =>
    simp only [List.length_cons] at h2
    rw [Memory.writeBytes, Memory.writeBytes]
    by_cases h : a + 1 ≤ b
    · exact ih _ _ _ h (by omega)
    · obtain rfl : b = a := by omega
      rw [Memory.lookup_writeBytes_other _ _ _ _ (by omega),
        Memory.lookup_writeBytes_other _ _ _ _ (by omega), Memory.lookup_write,
        Memory.lookup_write, if_pos rfl, if_pos rfl]

/-- Writing the same bytes twice is writing them once. -/
theorem Memory.writeBytes_twice {m : Memory} (vs : List Byte) (a : Nat) (h : m.wf) :
    (m.writeBytes a vs).writeBytes a vs = m.writeBytes a vs := by
  have hw := Memory.wf_writeBytes vs a h
  refine Memory.ext_lookup (Memory.wf_writeBytes vs a hw) hw fun b => ?_
  by_cases hb : a ≤ b ∧ b < a + vs.length
  · exact Memory.lookup_writeBytes_inside vs _ _ a b hb.1 hb.2
  · exact Memory.lookup_writeBytes_other vs _ a b (by omega)

/-! ## Words -/

@[simp] theorem wordBytes_length (w : Word) : (wordBytes w).length = 4 := rfl

/-- Bit k of byte i of a word, both counted from the most significant end, is bit 8i + k of the word
(R55, R56). -/
theorem wordBytes_getMsbD (w : Word) (i k : Nat) (hi : i < 4) (hk : k < 8) :
    ((wordBytes w)[i]'(by simpa using hi)).getMsbD k = w.getMsbD (8 * i + k) := by
  have key : ∀ j, j + 8 * i + 8 = 32 →
      (w.extractLsb' j 8).getMsbD k = w.getMsbD (8 * i + k) := by
    intro j hj
    simp only [BitVec.getMsbD, BitVec.getLsbD_extractLsb', hk, decide_true, Bool.true_and]
    rw [show j + (8 - 1 - k) = 32 - 1 - (8 * i + k) by omega]
    simp [show 8 * i + k < 32 by omega]
    omega
  match i, hi with
  | 0, _ => exact key 24 rfl
  | 1, _ => exact key 16 rfl
  | 2, _ => exact key 8 rfl
  | 3, _ => exact key 0 rfl

end Sys2Proof.Machine
end

