-- ==== Sys2Proof/Laws/PerInstr.lean ====
section
/-! SUPPORT. One fact for every command, proved per constructor: of the well-formed commands, exactly
those of the default row have a nonzero bit in the MBZ field (R69, R70). -/

namespace Sys2Proof.Laws

/-- The MBZ field of the word of a well-formed command is zero exactly where the command is not of
the default row. -/
def MbzField.Statement (i : Instr) : Prop :=
  i.wellFormed = true → (mbzField (encode i) = 0 ↔ ∀ m o, i ≠ .illegalMbz m o)

theorem MbzField.nop : MbzField.Statement .nop := by
  intro _
  simp [encode, mbzField]

theorem MbzField.decode : MbzField.Statement .decode := by
  intro _
  simp [encode, mbzField]

theorem MbzField.locate : MbzField.Statement .locate := by
  intro _
  simp [encode, mbzField]

theorem MbzField.extract : MbzField.Statement .extract := by
  intro _
  simp [encode, mbzField]

theorem MbzField.validate : MbzField.Statement .validate := by
  intro _
  simp [encode, mbzField]

theorem MbzField.fields : MbzField.Statement .fields := by
  intro _
  simp [encode, mbzField]

theorem MbzField.clear : MbzField.Statement .clear := by
  intro _
  simp [encode, mbzField]

theorem MbzField.illegal7 : MbzField.Statement .illegal7 := by
  intro _
  simp [encode, mbzField]

theorem MbzField.illegalMbz (m : BitVec 29) (o : BitVec 3) :
    MbzField.Statement (.illegalMbz m o) := by
  intro h
  have hm : m ≠ 0 := by simpa [Instr.wellFormed] using h
  have he : mbzField (encode (.illegalMbz m o)) = m := by
    apply BitVec.eq_of_getLsbD_eq
    intro i hi
    simp only [mbzField, encode, BitVec.getLsbD_extractLsb', BitVec.getLsbD_append]
    simp [hi]
  rw [he]
  exact ⟨fun h0 => absurd h0 hm, fun h0 => absurd rfl (h0 m o)⟩

end Sys2Proof.Laws
end

