-- ==== Sys2Proof/Laws/View.lean ====
section
/-! SUPPORT. The capture as the stages see it: the bits of a window, and what the view and the frame
buffer depend on. -/

namespace Sys2Proof.Machine

/-- Bit j of `n` view bits, counted from the most significant one, is `V(k+j)` (R11). -/
theorem viewBits_getMsbD (s : State) (k n j : Nat) :
    (viewBits s k n).getMsbD j = (decide (j < n) && view s (k + j)) := by
  induction n with
  | zero => simp [viewBits]
  | succ n ih =>
    rw [viewBits, BitVec.getMsbD_concat, ih]
    by_cases h : j < n
    · simp [h, show j < n + 1 by omega]
    · by_cases h' : j = n
      · simp [h']
      · simp [h, show ¬ j < n + 1 by omega, show ¬ j = n by omega]

/-- Two bit vectors with the same bits, counted from the most significant end, are equal. -/
theorem eq_of_getMsbD {n : Nat} {x y : BitVec n} (h : ∀ j < n, x.getMsbD j = y.getMsbD j) :
    x = y := by
  apply BitVec.eq_of_getLsbD_eq
  intro i hi
  have := h (n - 1 - i) (by omega)
  simp only [BitVec.getMsbD] at this
  rw [show n - 1 - (n - 1 - i) = i by omega] at this
  simpa [show n - 1 - i < n by omega] using this

/-- The window test is the bit by bit test of R90. -/
theorem window_eq_preamble_iff (s : State) (k : Nat) : window s k = preamble ↔ PreambleAt s k := by
  constructor
  · intro h j hj
    rw [← h, window, viewBits_getMsbD]
    simp [hj]
  · intro h
    apply eq_of_getMsbD
    intro j hj
    rw [window, viewBits_getMsbD, ← h j hj]
    simp [hj]

/-- The view of a capture bit depends only on the byte that holds it and on CTRL.INVERT (R57). -/
theorem view_congr {s t : State} {i : Nat} (hi : t.invert = s.invert)
    (hm : t.mem.read (capBase + i / 8) = s.mem.read (capBase + i / 8)) : view t i = view s i := by
  simp [view, capBit, hi, hm]

/-- View bits from `k` on that agree one by one agree as numbers. -/
theorem viewBits_congr {s t : State} {k n : Nat} (h : ∀ j < n, view t (k + j) = view s (k + j)) :
    viewBits t k n = viewBits s k n := by
  apply eq_of_getMsbD
  intro j hj
  simp only [viewBits_getMsbD]
  rw [h j hj]

theorem PreambleAt.congr {s t : State} {k : Nat} (h : ∀ j < 24, view t (k + j) = view s (k + j)) :
    PreambleAt t k ↔ PreambleAt s k := by
  constructor
  · intro hp j hj
    rw [← h j hj]
    exact hp j hj
  · intro hp j hj
    rw [h j hj]
    exact hp j hj

@[simp] theorem packed_length (s : State) (k : Nat) :
    (packed s k).length = 12 * s.build.repeatCount := by
  simp [packed, frameLen, frameBytes]

/-- Byte j of what EXTRACT packs: its bit b is `V(k + 8j + b)` (R94). -/
theorem packed_getElem (s : State) (k j : Nat) (hj : j < (packed s k).length) :
    (packed s k)[j] = viewBits s (k + 8 * j) 8 := by
  simp [packed]

end Sys2Proof.Machine
end

