-- ==== Sys2Proof/Laws/Stages.lean ====
section
/-! SUPPORT. One specification lemma for each shared operation of the stages: the search, the packing,
the comparison, the precondition and the completion. Proofs cite these and do not unfold the
operations. -/

namespace Sys2Proof.Machine

/-! ## The search (R90) -/

theorem locateFrom_eq_some_iff (s : State) (n k j : Nat) :
    locateFrom s n k = some j ↔
      k ≤ j ∧ j < k + n ∧ PreambleAt s j ∧ ∀ i, k ≤ i → i < j → ¬ PreambleAt s i := by
  induction n generalizing k with
  | zero => simp [locateFrom]; omega
  | succ n ih =>
    rw [locateFrom]
    split
    · next hw =>
      have h := (window_eq_preamble_iff s k).1 hw
      constructor
      · intro hj
        obtain rfl : k = j := by simpa using hj
        exact ⟨Nat.le_refl _, by omega, h, fun i h1 h2 => by omega⟩
      · rintro ⟨h1, _, _, h4⟩
        by_cases hk : k = j
        · rw [hk]
        · exact absurd h (h4 k (Nat.le_refl _) (by omega))
    · next hw =>
      have h := mt (window_eq_preamble_iff s k).2 hw
      rw [ih]
      constructor
      · rintro ⟨h1, h2, h3, h4⟩
        refine ⟨by omega, by omega, h3, fun i hi hij => ?_⟩
        by_cases hk : k = i
        · exact hk ▸ h
        · exact h4 i (by omega) hij
      · rintro ⟨h1, h2, h3, h4⟩
        have hk : k ≠ j := fun hk => h (hk ▸ h3)
        exact ⟨by omega, by omega, h3, fun i hi hij => h4 i (by omega) hij⟩

theorem locateFrom_eq_none_iff (s : State) (n k : Nat) :
    locateFrom s n k = none ↔ ∀ i, k ≤ i → i < k + n → ¬ PreambleAt s i := by
  induction n generalizing k with
  | zero => simp [locateFrom]; omega
  | succ n ih =>
    rw [locateFrom]
    split
    · next hw =>
      have h := (window_eq_preamble_iff s k).1 hw
      simpa using ⟨k, Nat.le_refl _, by omega, h⟩
    · next hw =>
      have h := mt (window_eq_preamble_iff s k).2 hw
      rw [ih]
      constructor
      · intro hi i h1 h2
        by_cases hk : k = i
        · exact hk ▸ h
        · exact hi i (by omega) (by omega)
      · exact fun hi i h1 h2 => hi i (by omega) (by omega)

/-- The search finds `k` exactly where `k` is the first match. -/
theorem locate_eq_some_iff (s : State) (k : Nat) :
    locate s s.capLen.toNat s.startOffset.toNat = some k ↔ FirstMatch s k := by
  unfold locate preambleBits
  split
  · next h =>
    constructor
    · simp
    · intro hk
      have := hk.fits
      omega
  · next h =>
    rw [locateFrom_eq_some_iff]
    constructor
    · rintro ⟨h1, h2, h3, h4⟩
      exact ⟨h1, by omega, h3, h4⟩
    · intro hk
      have h1 := hk.start_le
      have h2 := hk.fits
      exact ⟨h1, by omega, hk.here, hk.first⟩

/-- The search finds nothing exactly where no offset matches. -/
theorem locate_eq_none_iff (s : State) :
    locate s s.capLen.toNat s.startOffset.toNat = none ↔ NoMatch s := by
  unfold locate preambleBits NoMatch
  split
  · next h =>
    constructor
    · intro _ k h1 h2
      omega
    · simp
  · next h =>
    rw [locateFrom_eq_none_iff]
    constructor
    · exact fun hk k h1 h2 => hk k h1 (by omega)
    · exact fun hk k h1 h2 => hk k h1 (by omega)

/-- A first match fits into the 16 bits of MATCH_OFFSET and is not the sentinel (R33). -/
theorem FirstMatch.toNat_ofNat {s : State} {k : Nat} (h : FirstMatch s k) :
    (BitVec.ofNat 16 k).toNat = k := by
  have h1 := h.fits
  have h2 := s.capLen.isLt
  simp only [BitVec.toNat_ofNat]
  omega

theorem FirstMatch.ne_notFound {s : State} {k : Nat} (h : FirstMatch s k) :
    BitVec.ofNat 16 k ≠ notFound := by
  intro he
  have h1 := h.toNat_ofNat
  have h2 := h.fits
  have h3 := s.capLen.isLt
  rw [he] at h1
  simp [notFound] at h1
  omega

/-- `LocateBody()` where there is a first match (R90). -/
theorem locateBody_found {s : State} {k : Nat} (h : FirstMatch s k) :
    locateBody s =
      .running { s.invalidateFound with found := true, matchOffset := BitVec.ofNat 16 k } := by
  simp only [locateBody, (locate_eq_some_iff s k).2 h]

/-- `LocateBody()` where there is none (R90). -/
theorem locateBody_notFound {s : State} (h : NoMatch s) :
    locateBody s = .rejected .preambleNotFound s.invalidateFound := by
  simp only [locateBody, (locate_eq_none_iff s).2 h]

/-- Either there is a first match or there is none. -/
theorem firstMatch_or_noMatch (s : State) : (∃ k, FirstMatch s k) ∨ NoMatch s := by
  cases h : locate s s.capLen.toNat s.startOffset.toNat with
  | none => exact .inr ((locate_eq_none_iff s).1 h)
  | some k => exact .inl ⟨k, (locate_eq_some_iff s k).1 h⟩

/-! ## The packing (R93 to R96) -/

theorem enough_iff (s : State) (k : Nat) :
    enough s k = true ↔ k + 96 * s.build.repeatCount ≤ s.capLen.toNat := by
  simp only [enough, decide_eq_true_eq]
  rfl

/-- What writing FRAME_BUF leaves in it. -/
theorem frameByte_writeFrame (s : State) (bs : List Byte) (j : Nat) (hj : j < bs.length) :
    frameByte (s.writeFrame bs) j = bs[j] := by
  simp only [frameByte, State.writeFrame_mem]
  exact Memory.read_writeBytes_inside _ _ _ _ hj

/-- Writing FRAME_BUF leaves every other byte alone. -/
theorem read_writeFrame_other (s : State) (bs : List Byte) (a : Nat)
    (h : a < frameBase ∨ frameBase + bs.length ≤ a) :
    (s.writeFrame bs).mem.read a = s.mem.read a := by
  rw [State.writeFrame_mem]
  exact Memory.read_writeBytes_other _ _ _ _ h

/-- Clearing FRAME_BUF leaves 0x00 in its every byte (R83, R127). -/
theorem frameByte_clearFrame (s : State) (j : Nat) (hj : j < 12 * s.build.repeatCount) :
    frameByte s.clearFrame j = 0 := by
  have hl : j < (List.replicate (frameLen s.build) (0 : Byte)).length := by
    simpa [frameLen, frameBytes] using hj
  simp only [frameByte, State.clearFrame_mem]
  rw [Memory.read_writeBytes_inside _ _ _ _ hl]
  simp

/-- Clearing FRAME_BUF leaves every other byte alone. -/
theorem read_clearFrame_other (s : State) (a : Nat)
    (h : a < frameBase ∨ frameBase + 12 * s.build.repeatCount ≤ a) :
    s.clearFrame.mem.read a = s.mem.read a := by
  rw [State.clearFrame_mem]
  exact Memory.read_writeBytes_other _ _ _ _ (by simpa [frameLen, frameBytes] using h)

/-- `ExtractBody()` where the capture holds enough bits (R95). -/
theorem extractBody_enough {s : State}
    (h : s.matchOffset.toNat + 96 * s.build.repeatCount ≤ s.capLen.toNat) :
    extractBody s =
      .running { s.invalidateExtracted.writeFrame (packed s s.matchOffset.toNat) with
        extracted := true } := by
  simp only [extractBody, (enough_iff s _).2 h]

/-- `ExtractBody()` where it does not (R95, R96). -/
theorem extractBody_insufficient {s : State}
    (h : s.capLen.toNat < s.matchOffset.toNat + 96 * s.build.repeatCount) :
    extractBody s = .rejected .insufficientBits s.invalidateExtracted := by
  have : enough s s.matchOffset.toNat = false := by
    rw [Bool.eq_false_iff, Ne, enough_iff]
    omega
  simp only [extractBody, this]

/-- FRAME_BUF after `Pack(k)` holds the view bits from `k` on (R94). -/
theorem frameByte_packed (s u : State) (k j b : Nat) (hj : j < 12 * s.build.repeatCount)
    (hb : b < 8) (hu : u.mem = s.mem.writeBytes frameBase (packed s k)) :
    (frameByte u j).getMsbD b = view s (k + 8 * j + b) := by
  have hl : j < (packed s k).length := by simpa using hj
  simp only [frameByte, hu]
  rw [Memory.read_writeBytes_inside _ _ _ _ hl, packed_getElem, viewBits_getMsbD]
  simp [hb]

/-! ## The comparison (R98) -/

theorem repeatsAgree_iff (s : State) : repeatsAgree s = true ↔ CopiesAgree s := by
  simp only [repeatsAgree, copyAgrees, CopiesAgree, List.all_eq_true, List.mem_range, compareEnd,
    frameBytes, beq_iff_eq]
  constructor
  · intro h r p h1 h2 hp
    have := h (r - 1) (by omega) p hp
    rwa [show r - 1 + 1 = r by omega] at this
  · intro h r hr p hp
    exact h (r + 1) p (by omega) (by omega) hp

theorem validateBody_agree {s : State} (h : CopiesAgree s) :
    validateBody s = .running { s.invalidateValid with valid := true } := by
  simp only [validateBody, (repeatsAgree_iff s).2 h]

theorem validateBody_mismatch {s : State} (h : ¬ CopiesAgree s) :
    validateBody s = .rejected .repeatMismatch s.invalidateValid := by
  have : repeatsAgree s = false := by
    rw [Bool.eq_false_iff, Ne, repeatsAgree_iff]
    exact h
  simp only [validateBody, this]

/-! ## Preconditions and completion (R78, R80, R115) -/

@[simp] theorem need_true (s : State) : need true s = .running s := rfl

@[simp] theorem need_false (s : State) : need false s = .rejected .precondition s := rfl

theorem need_pos {flag : Bool} (h : flag = true) (s : State) : need flag s = .running s := by
  rw [h, need_true]

theorem need_neg {flag : Bool} (h : flag = false) (s : State) :
    need flag s = .rejected .precondition s := by
  rw [h, need_false]

@[simp] theorem andThen_running (s : State) (f : State → Progress) :
    (Progress.running s).andThen f = f s := rfl

@[simp] theorem andThen_rejected (c : Reason) (s : State) (f : State → Progress) :
    (Progress.rejected c s).andThen f = .rejected c s := rfl

@[simp] theorem finish_running (s : State) :
    (Progress.running s).finish = .next s.recordComplete := rfl

@[simp] theorem finish_rejected (c : Reason) (s : State) :
    (Progress.rejected c s).finish = .next (s.recordReject c) := rfl

/-- A completion always answers a next state, and in one of two ways (R78). -/
theorem finish_cases (p : Progress) :
    (∃ s, p = .running s ∧ p.finish = .next s.recordComplete) ∨
      ∃ c s, p = .rejected c s ∧ p.finish = .next (s.recordReject c) := by
  cases p with
  | running s => exact .inl ⟨s, rfl, rfl⟩
  | rejected c s => exact .inr ⟨c, s, rfl, rfl⟩

end Sys2Proof.Machine
end

