-- ==== Sys2Proof/Laws/Words.lean ====
section
/-! SUPPORT. The words put together from fields, as numbers and bit by bit: concatenation (R10), the
STATUS, CONFIG and CAP_SIZE words, the words of memory, and the fields of a reading. -/

namespace Sys2Proof.Machine

/-- Concatenation as R10 defines it. -/
theorem append_toNat {n m : Nat} (x : BitVec n) (y : BitVec m) :
    BitVec.toNat (x ++ y) = x.toNat * 2 ^ m + y.toNat := by
  rw [BitVec.toNat_append, ← Nat.shiftLeft_add_eq_or_of_lt y.isLt, Nat.shiftLeft_eq]

theorem ofBool_toNat (b : Bool) : (BitVec.ofBool b).toNat = b.toNat := by cases b <;> rfl

/-- The STATUS word as a number (R21). -/
theorem statusWord_toNat (s : State) :
    (statusWord s).toNat = s.isBusy.toNat + 2 * s.done.toNat + 4 * s.rejected.toNat +
      8 * s.found.toNat + 16 * s.extracted.toNat + 32 * s.valid.toNat + 64 * s.reading.toNat +
      256 * s.reason.code.toNat + 65536 * s.errBusyWrite.toNat := by
  show BitVec.toNat (w := 15 + 1 + 4 + 4 + 1 + 1 + 1 + 1 + 1 + 1 + 1 + 1) (_ ++ _) = _
  simp only [append_toNat, ofBool_toNat, BitVec.toNat_ofNat]
  omega

/-- The STATUS word read while BUSY, bit by bit (R86). -/
theorem busyStatusWord_getLsbD (s : State) (any : Word) (i : Nat) (hi : i < 32) :
    (busyStatusWord s any).getLsbD i =
      if i = 0 then true else if i = 1 then false else if i = 16 then s.errBusyWrite
      else (decide ((2 ≤ i ∧ i ≤ 6) ∨ (8 ≤ i ∧ i ≤ 11)) && any.getLsbD i) := by
  show BitVec.getLsbD (w := 15 + 1 + 4 + 4 + 1 + 5 + 1 + 1) (_ ++ _) i = _
  simp only [BitVec.getLsbD_append]
  interval_cases i <;> simp

/-- The CONFIG word as a number (R17). -/
theorem configWord_toNat {b : Build} (h : b.repeatCount < 16) :
    (configWord b).toNat = b.repeatCount + 16 * b.comparePause.toNat + 256 * 12 := by
  show BitVec.toNat (w := 16 + 8 + 3 + 1 + 4) (_ ++ _) = _
  simp only [append_toNat, ofBool_toNat, BitVec.toNat_ofNat, frameBytes]
  omega

/-- The CAP_SIZE word as a number (R18). -/
theorem capSizeWord_toNat {b : Build} (h : b.capBitsMax < 65536) :
    (capSizeWord b).toNat = b.capBitsMax := by
  show BitVec.toNat (w := 16 + 16) (_ ++ _) = _
  simp only [append_toNat, BitVec.toNat_ofNat]
  omega

/-- A word of memory as a number, the byte at the lowest address most significant (R55, R56). -/
theorem readWord_toNat (m : Memory) (a : Nat) :
    (m.readWord a).toNat = (m.read a).toNat * 2 ^ 24 + (m.read (a + 1)).toNat * 2 ^ 16 +
      (m.read (a + 2)).toNat * 2 ^ 8 + (m.read (a + 3)).toNat := by
  show BitVec.toNat (w := 8 + 8 + 8 + 8) (_ ++ _) = _
  simp only [append_toNat]
  omega

/-- Byte i of a word of memory, counted from the most significant one (R56). -/
theorem readWord_byte (m : Memory) (a i : Nat) (hi : i < 4) :
    (m.readWord a).extractLsb' (24 - 8 * i) 8 = m.read (a + i) := by
  apply BitVec.eq_of_toNat_eq
  rw [BitVec.extractLsb'_toNat, readWord_toNat, Nat.shiftRight_eq_div_pow]
  have h0 := (m.read a).isLt
  have h1 := (m.read (a + 1)).isLt
  have h2 := (m.read (a + 2)).isLt
  have h3 := (m.read (a + 3)).isLt
  interval_cases i <;> simp <;> omega

/-- Bit k of a word of memory, counted from the most significant one, is bit k mod 8 of byte k div 8
(R55). -/
theorem readWord_getMsbD (m : Memory) (a k : Nat) (hk : k < 32) :
    (m.readWord a).getLsbD (31 - k) = (m.read (a + k / 8)).getMsbD (k % 8) := by
  rw [← readWord_byte m a (k / 8) (by omega), BitVec.getMsbD, BitVec.getLsbD_extractLsb']
  simp only [show k % 8 < 8 by omega, decide_true, Bool.true_and,
    show 8 - 1 - k % 8 < 8 by omega]
  congr 1
  omega

/-! ## The fields of a reading -/

theorem highNibble_toNat (b : Byte) : (highNibble b).toNat = b.toNat / 16 := by
  have := b.isLt
  rw [highNibble, BitVec.extractLsb'_toNat, Nat.shiftRight_eq_div_pow]
  omega

theorem lowNibble_toNat (b : Byte) : (lowNibble b).toNat = b.toNat % 16 := by
  rw [lowNibble, BitVec.extractLsb'_toNat]
  rfl

/-- TEMP_TENTHS as a number (R104). -/
theorem tempTenths_toNat (b : Nat → Byte) :
    (tempTenths b).toNat = (b 4).toNat % 16 * 256 + (b 5).toNat := by
  show BitVec.toNat (w := 4 + 8) (_ ++ _) = _
  rw [append_toNat, lowNibble_toNat]
  rfl

/-- RAIN_STEPS as a number (R106). -/
theorem rainSteps_toNat (b : Nat → Byte) :
    (rainSteps b).toNat = (b 7).toNat * 16 + (b 8).toNat / 16 := by
  show BitVec.toNat (w := 8 + 4) (_ ++ _) = _
  rw [append_toNat, highNibble_toNat]
  rfl

/-- RAIN_HMM as a number: it does not wrap (R107). -/
theorem rainHmm_toNat (b : Nat → Byte) :
    (rainHmm b).toNat = ((b 7).toNat * 16 + (b 8).toNat / 16) * 75 := by
  have h7 := (b 7).isLt
  have h8 := (b 8).isLt
  rw [rainHmm, BitVec.toNat_mul, BitVec.toNat_setWidth, rainSteps_toNat]
  simp only [BitVec.toNat_ofNat]
  omega

/-- WIND_SPEED_KMH as a number (R108). -/
theorem windSpeedKmh_toNat (b : Nat → Byte) :
    (windSpeedKmh b).toNat = (b 8).toNat % 16 * 16 + (b 9).toNat / 16 := by
  have h9 := (b 9).isLt
  rw [windSpeedKmh, BitVec.toNat_setWidth, append_toNat, lowNibble_toNat, highNibble_toNat]
  omega

/-- DIR_INDEX as a number (R109). -/
theorem dirIndex_toNat (b : Nat → Byte) : (dirIndex b).toNat = (b 9).toNat % 16 :=
  lowNibble_toNat _

/-- DIR_TENTHS_DEG as a number: it does not wrap (R113). -/
theorem dirTenthsDeg_toNat (b : Nat → Byte) :
    (dirTenthsDeg b).toNat = (b 9).toNat % 16 * 225 := by
  rw [dirTenthsDeg, BitVec.toNat_mul, BitVec.toNat_setWidth, dirIndex_toNat]
  simp only [BitVec.toNat_ofNat]
  omega

/-- BATTERY_LOW as a number (R103). -/
theorem batteryLow_toNat (b : Nat → Byte) :
    (batteryLow b).toNat = if (b 4).toNat / 16 = 15 then 1 else 0 := by
  have h : batteryLow b = decide ((b 4).toNat / 16 = 15) := by
    rw [batteryLow, ← highNibble_toNat, batteryNibble]
    generalize highNibble (b 4) = n
    revert n
    decide
  rw [h]
  by_cases hb : (b 4).toNat / 16 = 15 <;> simp [hb]

/-- The result registers depend only on the bytes 3 to 9 of copy 0 (R102, R114). -/
theorem readingOf_congr {b c : Nat → Byte} (h : ∀ j, 3 ≤ j → j ≤ 9 → c j = b j) :
    readingOf c = readingOf b := by
  simp only [readingOf, deviceId, batteryLow, batteryNibble, tempTenths, humidityPct, rainHmm,
    rainSteps, windSpeedKmh, dirTenthsDeg, dirIndex, h 3 (by omega) (by omega),
    h 4 (by omega) (by omega), h 5 (by omega) (by omega), h 6 (by omega) (by omega),
    h 7 (by omega) (by omega), h 8 (by omega) (by omega), h 9 (by omega) (by omega)]

end Sys2Proof.Machine
end

