-- ==== Sys2Proof/Tests/Slice0.lean ====
section
/-! SUPPORT. The model's own tests. Expected values are those of 95_test_vectors.md, whose vector is
named, or are written out from the encoding of 30_encoding.md. The second part holds one witness for
every obligation with hypotheses. -/

namespace Sys2Proof.Tests

open Sys2Proof.Machine

/-! ## Helpers -/

/-- The words `ws` in the capture memory. -/
def capture (ws : List Word) : Memory :=
  Memory.writeBytes [] capBase (ws.flatMap wordBytes)

/-- The words `ws` in the frame buffer. -/
def frames (ws : List Word) : Memory :=
  Memory.writeBytes [] frameBase (ws.flatMap wordBytes)

/-- The reset state with a capture of `len` bits. -/
def captured (ws : List Word) (len : BitOffset) : State :=
  { State.reset with mem := capture ws, capLen := len }

/-- The frame G of 95_test_vectors.md, with pause byte `p`. -/
def frameG (p : Byte) : List Word := [0xAAA5980F, 0x00905305, 0xE02DA3#24 ++ p]

/-- Three copies of G with the pause bytes 80, 00 and FF. -/
def threeG : List Word := frameG 0x80 ++ frameG 0x00 ++ frameG 0xFF

/-- What `f` shows in the next state, if there is one. -/
def seen {α : Type} (o : Host.Outcome State Fault Refusal) (f : State → α) : Option α :=
  match o with
  | .next s => some (f s)
  | .fault _ => none
  | .refused _ => none

/-- The frame buffer of the reference build, as the nine words a host reads. -/
def frameWords (s : State) : List Word := (List.range 9).map (frameWordRead s)

/-- The result registers as a list. -/
def resultWords (s : State) : List Word :=
  [s.results.device, s.results.temperature, s.results.humidity, s.results.rain,
    s.results.rainVolume, s.results.windSpeed, s.results.windDir, s.results.windLabel]

/-- IDLE, with `st` presented. -/
def presented (st : Stimulus) : State := { State.reset with inputs := [st] }

/-- BUSY with the word `w` pending, `st` presented and the host's turn next. -/
def presentedBusy (w : Word) (st : Stimulus) : State :=
  { State.reset with eng := .busy w, inputs := [st], turns := [.host] }

theorem presented_moves (st : Stimulus) : HostMoves (presented st) st [] := ⟨rfl, .inl rfl⟩

theorem presentedBusy_moves (w : Word) (st : Stimulus) :
    HostMoves (presentedBusy w st) st [] := ⟨rfl, .inr rfl⟩

/-! ## Well-formedness -/

theorem test_wellFormed_refuses_zero_mbz :
    ∀ o : BitVec 3, (Instr.illegalMbz 0 o).wellFormed = false := by decide

theorem test_wellFormed_admits_stray_bit : (Instr.illegalMbz 1 0).wellFormed = true := by decide

/-! ## Decoding: the words of the rows of R70, written out bit by bit -/

theorem test_decode_nop : decode 0b00000000000000000000000000000000#32 = .nop := by decide

theorem test_decode_decode : decode 0b00000000000000000000000000000001#32 = .decode := by decide

theorem test_decode_locate : decode 0b00000000000000000000000000000010#32 = .locate := by decide

theorem test_decode_extract : decode 0b00000000000000000000000000000011#32 = .extract := by decide

theorem test_decode_validate : decode 0b00000000000000000000000000000100#32 = .validate := by
  decide

theorem test_decode_fields : decode 0b00000000000000000000000000000101#32 = .fields := by decide

theorem test_decode_clear : decode 0b00000000000000000000000000000110#32 = .clear := by decide

theorem test_decode_illegal7 : decode 0b00000000000000000000000000000111#32 = .illegal7 := by
  decide

/-- C-3: a stray top bit is not DECODE. -/
theorem test_decode_illegalMbz_top :
    decode 0b10000000000000000000000000000001#32 = .illegalMbz 0x10000000 1 := by decide

/-- C-4: the lowest stray bit is not NOP. -/
theorem test_decode_illegalMbz_low :
    decode 0b00000000000000000000000000001000#32 = .illegalMbz 1 0 := by decide

/-- R68: a command has 32 bits and no more. -/
theorem test_decodeTableWord :
    decodeTableWord 32 6 = some .clear ∧ decodeTableWord 8 6 = some .clear ∧
      decodeTableWord 40 6 = none := by decide

/-! ## Commands -/

/-- C-1: NOP from reset. -/
theorem test_nop : seen (exec .nop State.reset) statusWord = some 0 := by decide

/-- V-1: three copies with different pause bytes decode to reading(G). -/
theorem test_decode_success :
    seen (exec .decode (captured threeG 288)) (fun s => (statusWord s, resultWords s)) =
      some (0x0000007A, [0x0000000F, 0x00000090, 0x00000053, 0x0000005E, 0x00001B8A, 0x00000002,
        0x0B6D000D, 0x00574E57]) := by decide +kernel

/-- V-8: with copy 0's preamble broken the locator matches copy 1, and too few bits follow. -/
theorem test_decode_insufficient :
    seen (exec .decode (captured (0xABA5980F :: threeG.tail) 288))
      (fun s => (statusWord s, s.matchOffset, frameWords s)) =
      some (0x0000020E, 0x0060, List.replicate 9 0) := by decide +kernel

/-- L-4: an unaligned match. -/
theorem test_locate_unaligned :
    seen (exec .locate (captured [0x05552CC0] 293)) (fun s => (statusWord s, s.matchOffset)) =
      some (0x0000000A, 0x0005) := by decide +kernel

/-- L-8a and L-10: the view is inverted, and a match below START_OFFSET does not count. -/
theorem test_locate_inverted_and_start :
    seen (exec .locate { captured [0x555A6700] 24 with invert := true }) statusWord =
      some 0x0000000A ∧
    seen (exec .locate { captured [0x1554B300] 32 with startOffset := 4 })
      (fun s => (statusWord s, s.matchOffset)) = some (0x00000106, 0xFFFF) := by decide +kernel

/-- X-2: EXTRACT after a LOCATE that found offset 0. -/
theorem test_extract :
    seen (exec .extract { captured threeG 288 with found := true, matchOffset := 0 })
      (fun s => (statusWord s, frameWords s)) =
      some (0x0000001A, [0xAAA5980F, 0x00905305, 0xE02DA380, 0xAAA5980F, 0x00905305, 0xE02DA300,
        0xAAA5980F, 0x00905305, 0xE02DA3FF]) := by decide +kernel

/-- X-3: one bit short. -/
theorem test_extract_short :
    seen (exec .extract { captured threeG 287 with found := true, matchOffset := 0 })
      (fun s => (statusWord s, frameWords s)) =
      some (0x0000020E, List.replicate 9 0) := by decide +kernel

/-- V-1: the pause byte is not compared. -/
theorem test_validate :
    seen (exec .validate { State.reset with found := true, extracted := true, mem := frames threeG })
      statusWord = some 0x0000003A := by decide +kernel

/-- V-3 and V-6: byte 10 is compared, and in a build with COMPARE_PAUSE = 1 byte 11 is too. -/
theorem test_validate_mismatch :
    seen (exec .validate { State.reset with
      found := true, extracted := true,
      mem := frames (frameG 0x80 ++ [0xAAA5980F, 0x00905305, 0xE02DA280] ++ frameG 0x80) })
      statusWord = some 0x0000031E ∧
    seen (exec .validate { State.reset with
      build := ⟨3, true, 1024⟩, found := true, extracted := true, mem := frames threeG })
      statusWord = some 0x0000031E := by decide +kernel

/-- F-2: battery LOW by the high nibble of byte 4, humidity in byte 6. -/
theorem test_fields :
    seen (exec .fields { State.reset with
      valid := true, mem := frames [0xAAA59842, 0xF3E86400, 0x10000000] }) resultWords =
      some [0x00010F42, 0x3E8, 0x64, 0x001, 0x04B, 0x000, 0x00000000, 0x0020204E] := by
  decide +kernel

/-- F-4: every maximum, and no negative temperature. -/
theorem test_fields_maximum :
    seen (exec .fields { State.reset with
      valid := true, mem := frames [0xAAA598FF, 0xFFFFFFFF, 0xFFFF0000] }) resultWords =
      some [0x00010FFF, 0xFFF, 0xFF, 0xFFF, 0x4AFB5, 0x0FF, 0x0D2F000F, 0x004E4E57] := by
  decide +kernel

/-- C-15: CLEAR after a mismatch. -/
theorem test_clear :
    seen (exec .clear { State.reset with
      found := true, matchOffset := 0, extracted := true, rejected := true,
      reason := .repeatMismatch, done := true, mem := frames threeG })
      (fun s => (statusWord s, s.matchOffset, s.mem)) = some (0x00000002, 0xFFFF, []) := by
  decide +kernel

/-- C-2 and C-10: ILLEGAL keeps the flags of a reading. -/
theorem test_illegal7 :
    seen (exec .illegal7 State.reset) statusWord = some 0x00000406 ∧
    seen (exec .illegal7 { State.reset with
      done := true, found := true, extracted := true, valid := true, reading := true })
      statusWord = some 0x0000047E := by decide

/-- C-3 and C-4. -/
theorem test_illegalMbz :
    seen (exec (decode 0x80000001) State.reset) statusWord = some 0x00000406 ∧
    seen (exec (decode 0x00000008) State.reset) statusWord = some 0x00000406 := by decide

/-- C-5 to C-7: a stage without its flag. -/
theorem test_precondition :
    seen (exec .extract State.reset) statusWord = some 0x00000506 ∧
    seen (exec .validate State.reset) statusWord = some 0x00000506 ∧
    seen (exec .fields State.reset) statusWord = some 0x00000506 := by decide

/-! ## The bus -/

/-- B-1. -/
theorem test_read_config :
    seen (step (presented (.bus (.read 0x000)))) State.resp = some (some ⟨0x00000C03, false⟩) ∧
    seen (step (presented (.bus (.read 0x004)))) State.resp = some (some ⟨0x00000400, false⟩) := by
  decide

/-- B-2 and B-7: MATCH_OFFSET after reset, and a reserved slot of CAP_MEM. -/
theorem test_read_matchOffset :
    seen (step (presented (.bus (.read 0x01C)))) State.resp = some (some ⟨0x0000FFFF, false⟩) ∧
    seen (step (presented (.bus (.read 0x1080)))) State.resp = some (some ⟨0, false⟩) := by decide

/-- B-3 and B-4: bus errors. -/
theorem test_bus_error :
    step (presented (.bus (.read 0x011))) = .next { State.reset with resp := some ⟨0, true⟩ } ∧
    step (presented (.bus (.write 0x00C 1 0b0001))) =
      .next { State.reset with resp := some ⟨0, true⟩ } := by
  exact ⟨rfl, rfl⟩

/-- B-5: the word as the host reads it back, and its first bits. -/
theorem test_capture_write :
    seen (step (presented (.bus (.write 0x1000 0x12345678 0b1111))))
      (fun s => (capWordRead s 0, (List.range 8).map (capBit s))) =
      some (0x12345678, [false, false, false, true, false, false, true, false]) := by decide +kernel

/-- B-11 and B-12: CAP_LEN saturates, START_OFFSET ignores the bits above 15. -/
theorem test_input_writes :
    seen (step (presented (.bus (.write 0x014 0x00012345 0b1111)))) State.capLen = some 1024 ∧
    seen (step (presented (.bus (.write 0x018 0xFFFF7 0b1111)))) State.startOffset =
      some 0xFFF7 := by decide

/-- B-15 and B-18: a write dropped while BUSY, and an ignored one. -/
theorem test_busy_writes :
    seen (step (presentedBusy 1 (.bus (.write 0x014 300 0b1111))))
      (fun s => (s.capLen, s.errBusyWrite)) = some (0, true) ∧
    seen (step (presentedBusy 1 (.bus (.write 0x01C 0 0b1111)))) State.errBusyWrite =
      some false := by decide

/-- B-17: legality is checked before the busy drop (R119). -/
theorem test_busy_illegal :
    seen (step (presentedBusy 1 (.bus (.write 0x00C 1 0b0011))))
      (fun s => (s.resp, s.errBusyWrite)) = some (some ⟨0, true⟩, false) := by decide

/-- RST-1, while BUSY: no trace of the command, and the capture stays. -/
theorem test_reset_edge :
    step { captured [0xAAA59800] 24 with eng := .busy 2, inputs := [.reset none], turns := [.host] } =
      .next { State.reset with mem := capture [0xAAA59800] } := by
  rfl

/-- P1, lines 2 to 5, as the stimuli they present. -/
theorem test_host_program :
    hostProgram [.setlen 293, .cmd 1, .wait, .rd 0x01C] =
      [.bus (.write 0x014 0x00000125 0xF), .bus (.write 0x00C 0x00000001 0xF), .wait,
        .bus (.read 0x01C)] := by decide

/-- LOADCAP writes word after word from 0x1000 on. -/
theorem test_loadcap :
    (hostProgram [.loadcap [0x05552CC0, 0x78048298], .invert true, .clrerr]).map
      (fun st => match st with
        | .bus op => some (encodeOp op)
        | .wait => none
        | .reset _ => none) =
      [some (true, 0x1000, 0x05552CC0, 0xF), some (true, 0x1004, 0x78048298, 0xF),
        some (true, 0x008, 0x00000001, 0xF), some (true, 0x010, 0x00010000, 0xF)] := by decide

/-- Lines of programs P1, P3 and P5, from their text. -/
theorem test_assemble :
    assemble ["LOADCAP 0x05552CC0, 0x78048298 ; the capture".toList, "SETLEN 293".toList,
      "RUN DECODE".toList, "".toList, "RD FRAME_BUF+0x1C".toList, "WRB CMD, 1, 0b0001".toList,
      "CMD 0x80000001".toList] =
      some [.loadcap [0x05552CC0, 0x78048298], .setlen 293, .run 1, .rd 0x11C,
        .wrb 0x00C 1 0b0001, .cmd 0x80000001] := by decide +kernel

/-- Lines that are no host assembly. -/
theorem test_assemble_refuses :
    assemble ["SETLEN 0x100000000".toList] = none ∧ assemble ["RD 0x2000".toList] = none ∧
      assemble ["INVERT 2".toList] = none ∧ assemble ["RD CTRL+4".toList] = none ∧
      assemble ["LOADCAP".toList] = none := by decide +kernel

/-- INVERT reads its bit in each form of a number that R74 gives. -/
theorem test_assemble_invert :
    assemble ["INVERT 1".toList, "INVERT 0x1".toList, "INVERT 0x0".toList] =
      some [.invert true, .invert true, .invert false] := by decide +kernel

/-- As many words as the CAP_MEM window holds are a LOADCAP, one more is not (log entry 23). -/
theorem test_loadcap_window :
    (parseLoadcap (List.replicate 1024 ['7'])).isSome = true ∧
      parseLoadcap (List.replicate 1025 ['7']) = none := by decide +kernel

/-- A placed word is what the next step runs: the whole of one step from reset. -/
theorem test_withFetchWord :
    seen (step (State.reset.withFetchWord 32 7)) statusWord = some 0x00000406 ∧
    seen (step (State.reset.withFetchWord 32 0)) statusWord = some 0 ∧
    seen (step (State.reset.withFetchWord 32 0x80000001)) statusWord = some 0x00000406 := by
  decide

/-! ## Witnesses: for each obligation with hypotheses, states and operands that meet them, at the
bounds of every clause -/

/-- `DecodeEncodeRoundTrip`: both ends of both fields of the default row. -/
theorem witness_DecodeEncodeRoundTrip :
    (Instr.illegalMbz 1 0).wellFormed = true ∧ (Instr.illegalMbz 0x1FFFFFFF 7).wellFormed = true := by
  decide

theorem witness_EveryWordIsOneCommand : decode 8 = decode 8 := rfl

/-- `IllegalWordsChangeOnlyTheRecord`: 7, 8 and the last word. -/
theorem witness_IllegalWordsChangeOnlyTheRecord :
    ∀ w ∈ [(7 : Word), 8, 0xFFFFFFFF], w = 7 ∨ 8 ≤ w.toNat := by simp

/-- `StepRunsTheDecodedCommand`: the engine's turn, nothing presented, and a NOP presented. -/
theorem witness_StepRunsTheDecodedCommand :
    (∃ (s : State) (w : Word), s.eng = .busy w ∧ s.turns.head? ≠ some .host) ∧
    (∃ (s : State) (w : Word), s.eng = .busy w ∧ s.turns.head? = some .host ∧ s.inputs = []) ∧
    ∃ (s : State) (rest : List Stimulus),
      s.eng = .idle ∧ s.inputs = .bus (.write 0x00C 0 0b1111) :: rest :=
  ⟨⟨{ State.reset with eng := .busy 2 }, 2, rfl, by decide⟩,
    ⟨{ State.reset with eng := .busy 2, turns := [.host] }, 2, rfl, rfl, rfl⟩,
    ⟨presented (.bus (.write 0x00C 0 0b1111)), [], rfl, rfl⟩⟩

/-- `NopChangesNothing`: the last word, pending with DONE clear. -/
theorem witness_NopChangesNothing :
    (0xFFFFFFFF : Word) ≠ 0 ∧
      ({ State.reset with eng := .busy 0xFFFFFFFF } : State).eng = .busy 0xFFFFFFFF ∧
      ({ State.reset with eng := .busy 0xFFFFFFFF } : State).done = false :=
  ⟨by decide, rfl, rfl⟩

theorem witness_PlacedWordRunsNext : (0xFFFFFFFF : Word) ≠ 0 ∧ (0 : Word) = 0 := by decide

/-- `CommandWriteIssuesOrIsDropped`: a NOP and a command while IDLE, a command while BUSY. -/
theorem witness_CommandWriteIssuesOrIsDropped :
    (∀ w : Word, HostMoves (presented (.bus (.write 0x00C w 0b1111)))
      (.bus (.write 0x00C w 0b1111)) []) ∧
    (∀ w : Word, (presented (.bus (.write 0x00C w 0b1111))).eng = .idle) ∧
    ∀ p w : Word, HostMoves (presentedBusy p (.bus (.write 0x00C w 0b1111)))
      (.bus (.write 0x00C w 0b1111)) [] ∧
      (presentedBusy p (.bus (.write 0x00C w 0b1111))).eng = .busy p :=
  ⟨fun _ => presented_moves _, fun _ => rfl, fun _ _ => ⟨presentedBusy_moves _ _, rfl⟩⟩

/-- `WriteWhileBusy`: both ends of the CAP_MEM window, each input register, STATUS and an ignored
offset. -/
theorem witness_WriteWhileBusy :
    ∀ off ∈ [(0x1000 : Offset), 0x1FFC, 0x008, 0x00C, 0x014, 0x018, 0x010, 0x000, 0xFFC],
      off.toNat % 4 = 0 ∧ (presentedBusy 1 (.bus (.write off 5 0b1111))).eng = .busy 1 ∧
        HostMoves (presentedBusy 1 (.bus (.write off 5 0b1111))) (.bus (.write off 5 0b1111)) [] := by
  have h : ∀ off ∈ [(0x1000 : Offset), 0x1FFC, 0x008, 0x00C, 0x014, 0x018, 0x010, 0x000, 0xFFC],
      off.toNat % 4 = 0 := by simp
  exact fun off ho => ⟨h off ho, rfl, presentedBusy_moves _ _⟩

/-- `ReadWhileBusy`: the bounds of every branch in the reference build. -/
theorem witness_ReadWhileBusy :
    ∀ off ∈ [(0x010 : Offset), 0x01C, 0x020, 0x03C, 0x100, 0x120, 0x124, 0x000, 0x1FFC],
      off.toNat % 4 = 0 ∧ (presentedBusy 1 (.bus (.read off))).build.Legal ∧
        (presentedBusy 1 (.bus (.read off))).eng = .busy 1 ∧
        HostMoves (presentedBusy 1 (.bus (.read off))) (.bus (.read off)) [] := by
  have h : ∀ off ∈ [(0x010 : Offset), 0x01C, 0x020, 0x03C, 0x100, 0x120, 0x124, 0x000, 0x1FFC],
      off.toNat % 4 = 0 := by simp
  have hb : Config.referenceBuild.Legal := by decide
  exact fun off ho => ⟨h off ho, hb, rfl, presentedBusy_moves _ _⟩

/-- `BusErrorHasNoEffect`: each of the ways an access is illegal. -/
theorem witness_BusErrorHasNoEffect :
    (0x1FFF : Offset).toNat % 4 ≠ 0 ∧ (0x1FFC : Offset).toNat % 4 = 0 ∧
      (0b0111 : BitVec 4) ≠ 0b1111 ∧
      (∀ op : BusOp, HostMoves (presented (.bus op)) (.bus op) []) ∧
      ∀ op : BusOp, HostMoves (presentedBusy 1 (.bus op)) (.bus op) [] :=
  ⟨by decide, by decide, by decide, fun _ => presented_moves _,
    fun _ => presentedBusy_moves _ _⟩

/-- `ReadOnlyWritesAreIgnored`: both ends of each range, and STATUS. -/
theorem witness_ReadOnlyWritesAreIgnored :
    (∀ off ∈ [(0x000 : Offset), 0x004, 0x01C, 0x03C, 0x100, 0x13C], off.toNat % 4 = 0 ∧
      (off.toNat < 0x008 ∨ (0x01C ≤ off.toNat ∧ off.toNat < 0x040) ∨
        (0x100 ≤ off.toNat ∧ off.toNat < 0x140))) ∧
    (0x010 : Offset).toNat % 4 = 0 ∧
    ∀ off : Offset, HostMoves (presented (.bus (.write off 5 0b1111)))
      (.bus (.write off 5 0b1111)) [] :=
  ⟨by simp, by decide, fun _ => presented_moves _⟩

/-- `ReservedSpace`: both ends of each range in the reference build. -/
theorem witness_ReservedSpace :
    Config.referenceBuild.Legal ∧
    (∀ off ∈ [(0x040 : Offset), 0x0FC, 0x124, 0x13C, 0x140, 0xFFC], off.toNat % 4 = 0 ∧
      ((0x040 ≤ off.toNat ∧ off.toNat < 0x100) ∨
        (0x100 + 12 * Config.referenceBuild.repeatCount ≤ off.toNat ∧ off.toNat < 0x1000))) ∧
    ∀ op : BusOp, HostMoves (presented (.bus op)) (.bus op) [] :=
  ⟨by decide, by simp [Config.referenceBuild], fun _ => presented_moves _⟩

/-- `ReservedCaptureSlots`: the first and the last reserved slot of the reference build. -/
theorem witness_ReservedCaptureSlots :
    (∀ off ∈ [(0x1080 : Offset), 0x1FFC], off.toNat % 4 = 0 ∧
      0x1000 + Config.referenceBuild.capBitsMax / 32 * 4 ≤ off.toNat) ∧
    (∀ op : BusOp, HostMoves (presented (.bus op)) (.bus op) [] ∧ (presented (.bus op)).eng = .idle) ∧
    ∀ op : BusOp, HostMoves (presentedBusy 1 (.bus op)) (.bus op) [] :=
  ⟨by simp [Config.referenceBuild], fun _ => ⟨presented_moves _, rfl⟩, fun _ => presentedBusy_moves _ _⟩

/-- `IdleReadOfEachRegister` and `StatusReadShowsTheFlags`. -/
theorem witness_IdleReadOfEachRegister :
    ∀ off ∈ [(0x000 : Offset), 0x010, 0x03C], off.toNat % 4 = 0 ∧
      (presented (.bus (.read off))).build.Legal ∧ (presented (.bus (.read off))).eng = .idle ∧
      (presented (.bus (.read off))).inputs = [.bus (.read off)] := by
  have h : ∀ off ∈ [(0x000 : Offset), 0x010, 0x03C], off.toNat % 4 = 0 := by simp
  have hb : Config.referenceBuild.Legal := by decide
  exact fun off ho => ⟨h off ho, hb, rfl, rfl⟩

/-- `FrameBufferReads`: the first and the last word of the reference build, and the first and the last
slot above them. -/
theorem witness_FrameBufferReads :
    (∀ w ∈ [0, 8], w < 3 * Config.referenceBuild.repeatCount) ∧
      (∀ w ∈ [9, 15], 3 * Config.referenceBuild.repeatCount ≤ w ∧ w < 16) ∧
      (0x100 : Offset).toNat = 0x100 + 4 * 0 ∧ (0x120 : Offset).toNat = 0x100 + 4 * 8 ∧
      (0x124 : Offset).toNat = 0x100 + 4 * 9 ∧ (0x13C : Offset).toNat = 0x100 + 4 * 15 ∧
      Config.referenceBuild.Legal ∧
      ∀ off : Offset, (presented (.bus (.read off))).inputs = [.bus (.read off)] :=
  ⟨by decide, by decide, by decide, by decide, by decide, by decide, by decide, fun _ => rfl⟩

/-- `CaptureWordPlacement`: the first and the last word of the reference build. -/
theorem witness_CaptureWordPlacement :
    (∀ w ∈ [0, 31], w < Config.referenceBuild.capBitsMax / 32) ∧
      (0x1000 : Offset).toNat = 0x1000 + 4 * 0 ∧ (0x107C : Offset).toNat = 0x1000 + 4 * 31 ∧
      ∀ op : BusOp, (presented (.bus op)).eng = .idle ∧ (presented (.bus op)).inputs = [.bus op] :=
  ⟨by decide, by decide, by decide, fun _ => ⟨rfl, rfl⟩⟩

/-- `InputRegisterWrites`: both ends of the CAP_MEM window and of the capacity. -/
theorem witness_InputRegisterWrites :
    Config.referenceBuild.Legal ∧
    (∀ off ∈ [(0x1000 : Offset), 0x107C, 0x1080, 0x1FFC],
      0x1000 ≤ off.toNat ∧ off.toNat % 4 = 0) ∧
    (0x107C : Offset).toNat < 0x1000 + Config.referenceBuild.capBitsMax / 8 ∧ ∀ (off : Offset) (data : Word),
      (presented (.bus (.write off data 0b1111))).eng = .idle ∧
        (presented (.bus (.write off data 0b1111))).inputs = [.bus (.write off data 0b1111)] :=
  ⟨by decide, by simp, by decide, fun _ _ => ⟨rfl, rfl⟩⟩

/-- `ErrBusyWriteIsSticky`: a step that sets it, one that clears it by W1C and one by reset. -/
theorem witness_ErrBusyWriteIsSticky :
    seen (step (presentedBusy 1 (.bus (.write 0x1FFC 0 0b1111)))) State.errBusyWrite = some true ∧
    seen (step { presented (.bus (.write 0x010 0x00010000 0b1111)) with errBusyWrite := true })
      State.errBusyWrite = some false ∧
    seen (step { presented (.reset none) with errBusyWrite := true })
      State.errBusyWrite = some false := by decide

theorem witness_WaitPollsStatus :
    HostMoves (presented .wait) .wait [] ∧ HostMoves (presentedBusy 1 .wait) .wait [] :=
  ⟨presented_moves _, presentedBusy_moves _ _⟩

theorem witness_ResetEdgeReachesTheResetState :
    Config.referenceBuild.Legal ∧ ∀ op : Option BusOp,
      HostMoves (presented (.reset op)) (.reset op) [] ∧
        HostMoves (presentedBusy 1 (.reset op)) (.reset op) [] :=
  ⟨by decide, fun _ => ⟨presented_moves _, presentedBusy_moves _ _⟩⟩

/-- `PowerUpState`: the least and the greatest legal build. -/
theorem witness_PowerUpState :
    Build.Legal ⟨3, false, 288⟩ ∧ Build.Legal ⟨5, true, 32768⟩ := by decide

/-- `LocateFindsTheFirstMatch`, `DecodeEndStates`: L-5a, a match that ends at the last valid bit. -/
theorem witness_FirstMatch : FirstMatch (captured [0x00AAA598] 32) 8 :=
  (locate_eq_some_iff _ _).1 (by decide +kernel)

/-- `LocateFindsTheFirstMatch`, `DecodeEndStates`: L-5b, the same match cut off. -/
theorem witness_NoMatch : NoMatch (captured [0x00AAA598] 31) :=
  (locate_eq_none_iff _).1 (by decide +kernel)

/-- `LocateBounds`: a short capture, a start one past the last place (L-7), and a match. -/
theorem witness_LocateBounds :
    (captured [0xAAA59800] 23).capLen.toNat < 24 ∧
    (let s := { captured [0xAAA59800, 0] 64 with startOffset := 41 };
      s.capLen.toNat - 24 < s.startOffset.toNat) ∧
    seen (exec .locate (captured [0x00AAA598] 32)) State.rejected = some false := by decide +kernel

/-- `PreambleDoesNotOverlap`: the least distance, 24 bits. -/
theorem witness_PreambleDoesNotOverlap :
    let s := captured [0xAAA598AA, 0xA5980000] 64
    PreambleAt s 0 ∧ PreambleAt s 24 :=
  ⟨(window_eq_preamble_iff _ _).1 (by decide +kernel),
    (window_eq_preamble_iff _ _).1 (by decide +kernel)⟩

/-- `ExtractCopiesTheFrames` and `InsufficientBitsLeavesTheBuffer`: exactly enough bits and one fewer. -/
theorem witness_Extract :
    (let s := { captured threeG 288 with found := true, matchOffset := 0 };
      s.found = true ∧ s.matchOffset.toNat + 96 * s.build.repeatCount ≤ s.capLen.toNat) ∧
    (let s := { captured threeG 287 with found := true, matchOffset := 0 };
      s.found = true ∧ s.capLen.toNat < s.matchOffset.toNat + 96 * s.build.repeatCount) := by
  decide +kernel

/-- `ExtractedFrameStartsWithThePreamble`: a LOCATE that finds and an EXTRACT that succeeds. -/
theorem witness_ExtractedFrameStartsWithThePreamble :
    Config.referenceBuild.Legal ∧
    seen (exec .locate (captured threeG 288))
      (fun t => (t.rejected, seen (exec .extract t) State.rejected)) = some (false, some false) := by
  decide +kernel

theorem witness_PreconditionWritesNothing :
    (State.reset.found = false ∧ State.reset.extracted = false ∧ State.reset.valid = false) ∧
    let s := { State.reset with found := true, extracted := true, valid := true }
    s.found = true ∧ s.extracted = true ∧ s.valid = true := by decide

/-- `ValidateVerdict`: copies that agree, and a difference in the last compared byte of the last
copy, for both values of COMPARE_PAUSE. -/
theorem witness_ValidateVerdict :
    repeatsAgree { State.reset with extracted := true, mem := frames threeG } = true ∧
    (let s := { State.reset with
        extracted := true,
        mem := frames (frameG 0x80 ++ frameG 0x80 ++ [0xAAA5980F, 0x00905305, 0xE02DA280]) };
      10 < 11 ∧ frameByte s (12 * 2 + 10) ≠ frameByte s 10) ∧
    (let s := { State.reset with build := ⟨3, true, 1024⟩, extracted := true, mem := frames threeG };
      11 < 12 ∧ frameByte s (12 * 2 + 11) ≠ frameByte s 11) := by decide +kernel

/-- `PauseByteDoesNotCount`: frame buffers that differ in byte 11 of copies 1 and 2. -/
theorem witness_PauseByteDoesNotCount :
    let s := { State.reset with mem := frames (frameG 0x80 ++ frameG 0x80 ++ frameG 0x80) }
    s.build.comparePause = false ∧ frames threeG ≠ s.mem ∧
      ∀ r < s.build.repeatCount, ∀ p < 11,
        frameByte { s with mem := frames threeG } (12 * r + p) = frameByte s (12 * r + p) := by
  decide +kernel

theorem witness_Fields :
    ({ State.reset with valid := true, mem := frames threeG } : State).valid = true := rfl

/-- `FieldsReadsOnlyBytes3To9`: every other byte differs. -/
theorem witness_FieldsReadsOnlyBytes3To9 :
    let s := { State.reset with valid := true, mem := frames threeG }
    let m := frames [0x1111110F, 0x00905305, 0xE02D1111]
    m ≠ s.mem ∧ ∀ j < 10, 3 ≤ j → frameByte { s with mem := m } j = frameByte s j := by
  decide +kernel

/-- `DecodeEndStates`: the first match of a capture of exactly three copies, which agree. -/
theorem witness_DecodeEndStates :
    FirstMatch (captured threeG 288) 0 ∧
      0 + 96 * (captured threeG 288).build.repeatCount ≤ (captured threeG 288).capLen.toNat ∧
      (∀ r < 3, 1 ≤ r → ∀ p < 11, ∀ b < 8,
        view (captured threeG 288) (0 + 96 * r + 8 * p + b) =
          view (captured threeG 288) (0 + 8 * p + b)) :=
  ⟨(locate_eq_some_iff _ _).1 (by decide +kernel), by decide, by decide +kernel⟩

/-- `DecodeEndStates`: the same with one bit of the last copy changed (V-2), and with one bit too few
(X-3). -/
theorem witness_DecodeEndStates_rejected :
    let s := captured (frameG 0x80 ++ frameG 0x80 ++ [0xAAA5980F, 0x00905205, 0xE02DA380]) 288
    FirstMatch s 0 ∧ view s (0 + 96 * 2 + 8 * 6 + 7) ≠ view s (0 + 8 * 6 + 7) ∧
      FirstMatch (captured threeG 287) 0 ∧
      (captured threeG 287).capLen.toNat < 0 + 96 * (captured threeG 287).build.repeatCount :=
  ⟨(locate_eq_some_iff _ _).1 (by decide +kernel), by decide +kernel,
    (locate_eq_some_iff _ _).1 (by decide +kernel), by decide⟩

/-- `SecondDecodeChangesNothing`, `CommandsKeepTheInputs`: a legal build, a canonical memory and a
DECODE that answers. -/
theorem witness_SecondDecodeChangesNothing :
    (captured threeG 288).build.Legal ∧ (captured threeG 288).mem.wf ∧
      (seen (exec .decode (captured threeG 288)) State.reading) = some true :=
  ⟨by decide, Memory.wf_writeBytes _ _ ⟨List.Pairwise.nil, by simp⟩, by decide +kernel⟩

/-- `OnlyTheViewBelowCapLenMatters`: L-8a beside L-3, two captures of one view that share no bit. -/
theorem witness_OnlyTheViewBelowCapLenMatters :
    let s := captured [0xAAA59800] 24
    let u := { captured [0x555A6700] 24 with invert := true }
    s.build.Legal ∧ SameOutcome s u ∧ u.build = s.build ∧ u.capLen = s.capLen ∧
      u.startOffset = s.startOffset ∧ u.mem ≠ s.mem ∧
      ∀ j < s.capLen.toNat, view u j = view s j :=
  ⟨by decide, ⟨rfl, rfl, rfl, rfl, rfl, rfl, rfl, rfl, rfl, rfl, by decide +kernel⟩, rfl, rfl, rfl,
    by decide +kernel, by decide +kernel⟩

/-- `CompletionRecord`. -/
theorem witness_CompletionRecord : Instr.illegalMbz 1 0 ≠ .nop := by decide

/-- `FlagsAreSetOnlyByTheirStage`: steps that set each flag. -/
theorem witness_FlagsAreSetOnlyByTheirStage :
    seen (step { captured [0xAAA59800] 24 with eng := .busy 2 }) State.found = some true ∧
    seen (step { captured threeG 288 with eng := .busy 1 })
      (fun t => (t.extracted, t.valid, t.reading)) = some (true, true, true) := by decide +kernel

/-- `NoReadingNoResults`: a step from a state without a reading. -/
theorem witness_NoReadingNoResults :
    seen (step { State.reset with eng := .busy 6 }) State.reading = some false ∧
      State.reset.reading = false ∧ State.reset.results = Results.zero := by decide +kernel

/-- `EveryStepKeepsTheInvariants`: a state after reset that has them, with a DECODE pending. -/
theorem witness_EveryStepKeepsTheInvariants :
    Inv { State.reset with eng := .busy 1 } ∧
      seen (step { State.reset with eng := .busy 1 }) State.done = some true := by
  refine ⟨⟨by decide, ⟨List.Pairwise.nil, by simp [State.reset, State.powerUp]⟩, ?_, by decide, ?_,
    by decide, ?_, ?_, ?_, ?_, by decide, by decide, ?_⟩, by decide +kernel⟩
  · simp [State.reset, State.powerUp]
  · intro w hw
    obtain rfl : (1 : Word) = w := by simpa using hw
    exact ⟨by decide, rfl⟩
  all_goals simp [State.reset, State.powerUp]

theorem witness_InvariantsHoldAtReset : Build.Legal ⟨4, false, 384⟩ := by decide

/-- `BusyStepsKeepWhatTheCommandReads`, `ScheduleDoesNotChangeTheOutcome`: one dropped write on the
way. -/
theorem witness_ScheduleDoesNotChangeTheOutcome :
    ∃ s u : State, s.eng = .busy 1 ∧ BusyPath 1 s u ∧ u.errBusyWrite = true :=
  ⟨presentedBusy 1 (.bus (.write 0x1000 5 0b1111)),
    { State.reset with eng := .busy 1, resp := some ⟨0, false⟩, errBusyWrite := true },
    rfl, ⟨rfl, _, rfl, rfl, rfl⟩, rfl⟩

/-- `EveryCommandEnds`: two host steps stand before the completion. -/
theorem witness_EveryCommandEnds :
    ∃ (s : State) (w : Word), s.eng = .busy w ∧ decode w ≠ .nop ∧ s.turns = [.host, .host] :=
  ⟨{ State.reset with eng := .busy 1, turns := [.host, .host] }, 1, rfl, by decide, rfl⟩

/-- `PacedHostLosesNoWrite`: a program that loads a capture, waits after its command and then reads. -/
theorem witness_PacedHostLosesNoWrite :
    Paced { State.reset with
      inputs := hostProgram [.loadcap [0x05552CC0, 0x78048298], .setlen 64, .run 1, .rd 0x01C,
        .setlen 32, .cmd 2] } :=
  ⟨by decide +kernel, rfl⟩

/-- `PacedHostReadsNoOpenValue`: a paced step that reads the open bits of STATUS. -/
theorem witness_PacedHostReadsNoOpenValue :
    Paced (presentedBusy 1 .wait) ∧
      seen (step (presentedBusy 1 .wait)) State.freeReads = some 1 :=
  ⟨⟨by decide, rfl⟩, by decide⟩

theorem witness_InstancesShareNothing :
    [State.reset, State.reset][0]? = some State.reset ∧ (1 : Nat) ≠ 0 := ⟨rfl, by decide⟩

end Sys2Proof.Tests
end

section
/-! PROOFS. The reading and the eight result registers (R42): what every command, every transaction
and every step can do to them. -/

namespace Sys2Proof.Machine

/-! ## What may happen to the reading -/

/-- R42: where READING is 0 the result registers are zero. -/
def NoStaleResults (s : State) : Prop := s.reading = false → s.results = Results.zero

/-- Everything that can happen to READING and the result registers between `s` and `t`. -/
inductive ReadingEffect (s t : State) : Prop where
  /-- Neither is written. -/
  | kept (hr : t.reading = s.reading) (hv : t.results = s.results)
  /-- `InvalidateReading()` or a reset edge (R79, R127). -/
  | cleared (hr : t.reading = false) (hv : t.results = Results.zero)
  /-- `FieldsBody()` has written a reading (R112). -/
  | written (hr : t.reading = true)

theorem ReadingEffect.trans {s t u : State} (h₁ : ReadingEffect s t) (h₂ : ReadingEffect t u) :
    ReadingEffect s u := by
  cases h₂ with
  | cleared hr hv => exact .cleared hr hv
  | written hr => exact .written hr
  | kept hr hv =>
    cases h₁ with
    | kept hr' hv' => exact .kept (hr.trans hr') (hv.trans hv')
    | cleared hr' hv' => exact .cleared (hr.trans hr') (hv.trans hv')
    | written hr' => exact .written (hr.trans hr')

theorem ReadingEffect.noStaleResults {s t : State} (h : ReadingEffect s t)
    (hs : NoStaleResults s) : NoStaleResults t := by
  intro ht
  cases h with
  | kept hr hv => rw [hv, hs (hr ▸ ht)]
  | cleared _ hv => exact hv
  | written hr => exact absurd ht (by simp [hr])

/-! ## Commands -/

/-- The state a command's pseudocode has reached. -/
def Progress.state : Progress → State
  | .running s => s
  | .rejected _ s => s

@[simp] theorem Progress.state_running (s : State) : (Progress.running s).state = s := rfl

@[simp] theorem Progress.state_rejected (c : Reason) (s : State) :
    (Progress.rejected c s).state = s := rfl

theorem need_state (flag : Bool) (s : State) : (need flag s).state = s := by
  cases flag <;> simp

theorem andThen_readingEffect {s : State} {p : Progress} {f : State → Progress}
    (hp : ReadingEffect s p.state) (hf : ∀ u, ReadingEffect u (f u).state) :
    ReadingEffect s (p.andThen f).state := by
  cases p with
  | running u => exact hp.trans (hf u)
  | rejected c u => exact hp

/-- A stage behind its precondition (R80) does to the reading what its body does. -/
theorem need_andThen_readingEffect (flag : Bool) (s : State) {f : State → Progress}
    (hf : ∀ u, ReadingEffect u (f u).state) :
    ReadingEffect s ((need flag s).andThen f).state := by
  have hneed : ReadingEffect s (need flag s).state := by
    rw [need_state]
    exact .kept rfl rfl
  exact andThen_readingEffect hneed hf

/-- The completion record (R78) does not touch the reading. -/
theorem finish_readingEffect {s t : State} {p : Progress} (h : p.finish = .next t)
    (hp : ReadingEffect s p.state) : ReadingEffect s t := by
  cases p with
  | running u =>
    obtain rfl : u.recordComplete = t := by simpa using h
    exact hp.trans (.kept (by simp) (by simp))
  | rejected c u =>
    obtain rfl : u.recordReject c = t := by simpa using h
    exact hp.trans (.kept (by simp) (by simp))

theorem locateBody_readingEffect (s : State) : ReadingEffect s (locateBody s).state := by
  rcases firstMatch_or_noMatch s with ⟨k, hk⟩ | hn
  · rw [locateBody_found hk]
    exact .cleared rfl rfl
  · rw [locateBody_notFound hn]
    exact .cleared rfl rfl

theorem extractBody_readingEffect (s : State) : ReadingEffect s (extractBody s).state := by
  rcases Nat.lt_or_ge s.capLen.toNat (s.matchOffset.toNat + 96 * s.build.repeatCount) with hlt | hge
  · rw [extractBody_insufficient hlt]
    exact .cleared rfl rfl
  · rw [extractBody_enough hge]
    exact .cleared rfl rfl

theorem validateBody_readingEffect (s : State) : ReadingEffect s (validateBody s).state := by
  by_cases hc : CopiesAgree s
  · rw [validateBody_agree hc]
    exact .cleared rfl rfl
  · rw [validateBody_mismatch hc]
    exact .cleared rfl rfl

theorem fieldsBody_readingEffect (s : State) : ReadingEffect s (fieldsBody s).state := .written rfl

/-- The four stages of DECODE in a row (R81). -/
theorem decodeStages_readingEffect (s : State) :
    ReadingEffect s
      ((((Progress.running s.invalidateFound).andThen locateBody).andThen extractBody).andThen
        validateBody |>.andThen fieldsBody).state := by
  have hstart : ReadingEffect s (Progress.running s.invalidateFound).state := .cleared rfl rfl
  have hlocate := andThen_readingEffect hstart locateBody_readingEffect
  have hextract := andThen_readingEffect hlocate extractBody_readingEffect
  have hvalidate := andThen_readingEffect hextract validateBody_readingEffect
  exact andThen_readingEffect hvalidate fieldsBody_readingEffect

theorem exec_readingEffect {i : Instr} {s t : State} (h : exec i s = .next t) :
    ReadingEffect s t := by
  cases i with
  | nop =>
    obtain rfl : s = t := by simpa [exec, execNop] using h
    exact .kept rfl rfl
  | decode => exact finish_readingEffect h (decodeStages_readingEffect s)
  | locate => exact finish_readingEffect h (locateBody_readingEffect s)
  | extract =>
    exact finish_readingEffect h (need_andThen_readingEffect _ s extractBody_readingEffect)
  | validate =>
    exact finish_readingEffect h (need_andThen_readingEffect _ s validateBody_readingEffect)
  | fields =>
    exact finish_readingEffect h (need_andThen_readingEffect _ s fieldsBody_readingEffect)
  | clear =>
    exact finish_readingEffect (p := .running s.invalidateFound.clearFrame) h (.cleared rfl rfl)
  | illegal7 => exact finish_readingEffect (p := .rejected .illegalCommand s) h (.kept rfl rfl)
  | illegalMbz _ _ =>
    exact finish_readingEffect (p := .rejected .illegalCommand s) h (.kept rfl rfl)

/-! ## Transactions and steps -/

theorem capWordWrite_readingEffect (s : State) (w : Nat) (data : Word) :
    ReadingEffect s (capWordWrite s w data) := by
  unfold capWordWrite
  split <;> exact .kept rfl rfl

/-- No transaction writes READING or a result register: they are read-only to the host (R54), and an
input write invalidates FOUND alone (R87). -/
theorem TransactionEffect.readingEffect {s t : State} (h : TransactionEffect s t) :
    ReadingEffect s t := by
  cases h with
  | captureWrite w data _ ht =>
    have hanswer : ReadingEffect s (s.answer 0 false) := .kept rfl rfl
    have hinput : ReadingEffect (capWordWrite (s.answer 0 false) w data) t :=
      ht ▸ .kept rfl rfl
    exact (hanswer.trans (capWordWrite_readingEffect _ w data)).trans hinput
  | answered _ _ ht | openRead _ _ ht | dropped _ ht | clearsErr _ _ ht | issued _ _ _ ht
  | inputWrite _ _ _ _ _ ht =>
    subst ht
    exact .kept rfl rfl

theorem step_readingEffect {s t : State} (h : step s = .next t) : ReadingEffect s t := by
  cases step_cases h with
  | quiet _ _ ht => exact ht ▸ .kept rfl rfl
  | bus _ rest _ _ heff =>
    have hmove : ReadingEffect s (afterMove s rest) := .kept rfl rfl
    exact hmove.trans heff.readingEffect
  | wait rest _ _ heff =>
    have hmove : ReadingEffect s { afterMove s rest with
        inputs := if s.isBusy then .wait :: rest else rest } := .kept rfl rfl
    exact hmove.trans heff.readingEffect
  | reset _ _ _ _ ht => exact ht ▸ .cleared rfl rfl
  | engine _ _ _ ht =>
    have hturn : ReadingEffect s { s with turns := s.turns.tail } := .kept rfl rfl
    exact hturn.trans (exec_readingEffect ht)

/-! ## R42 -/

theorem step_noStaleResults {s t : State} (h : step s = .next t) (hs : NoStaleResults s) :
    NoStaleResults t :=
  (step_readingEffect h).noStaleResults hs

/-- Settles O46: a step keeps the reading, clears it with the results, or writes a new one. -/
theorem noReadingNoResults : Obligations.NoReadingNoResults :=
  ⟨fun _ => rfl, fun _ _ h hs => step_noStaleResults h hs⟩

end Sys2Proof.Machine
end

section
/-! PROOFS. Host accesses to the memory and the registers (20_memory.md): bus errors, ignored
writes, the words of FRAME_BUF and of CAP_MEM, and what no command writes (R51 to R56, R65). -/

namespace Sys2Proof.Machine

/-! ## The port's answer to a legal access (R50) -/

theorem readReg_resp (s : State) (r : Reg) : ∃ v, (readReg s r).resp = some ⟨v, false⟩ := by
  unfold readReg
  split <;> exact ⟨_, rfl⟩

@[simp] theorem capWordWrite_resp (s : State) (w : Nat) (data : Word) :
    (capWordWrite s w data).resp = s.resp := by
  unfold capWordWrite
  split <;> rfl

/-- The register's own rule leaves the answer that the port has given. -/
theorem writeRule_keeps_resp (s : State) (r : Reg) (data : Word) :
    ∃ t, (writeRule s r data).outcome = .next t ∧ t.resp = s.resp := by
  cases r with
  | cmd =>
    by_cases hw : data = 0
    · subst hw
      exact ⟨s, congrArg Action.outcome (issue_nop s), rfl⟩
    · exact ⟨s.beginCommand data, congrArg Action.outcome (issue_other s hw), rfl⟩
  | capMem w => exact ⟨(capWordWrite s w data).inputWritten, rfl, by simp⟩
  | _ => exact ⟨_, rfl, rfl⟩

/-- So does a legal write, dropped or not. -/
theorem writeReg_keeps_resp (s : State) (r : Reg) (data : Word) :
    ∃ t, (writeReg s r data).outcome = .next t ∧ t.resp = s.resp := by
  unfold writeReg
  split
  · exact ⟨s.busyDrop, rfl, rfl⟩
  · exact writeRule_keeps_resp s r data

/-! ## Bus errors (R51, R52, R117) -/

theorem step_read_misaligned {s : State} {off : Offset} {rest : List Stimulus}
    (h : HostMoves s (.bus (.read off)) rest) (ha : off.toNat % 4 ≠ 0) :
    step s = .next { afterMove s rest with resp := some ⟨0, true⟩ } :=
  step_busError h (Bool.eq_false_iff.2 (mt (legal_read_iff off).1 ha))

theorem step_write_illegal {s : State} {off : Offset} {data : Word} {be : BitVec 4}
    {rest : List Stimulus} (h : HostMoves s (.bus (.write off data be)) rest)
    (hl : ¬ (off.toNat % 4 = 0 ∧ be = 0b1111)) :
    step s = .next { afterMove s rest with resp := some ⟨0, true⟩ } :=
  step_busError h (Bool.eq_false_iff.2 (mt (legal_write_iff off data be).1 hl))

/-- Settles O13: an illegal access is stopped at the check of legality, before any register's rule;
a legal one is answered there without error, and no rule takes the answer back. -/
theorem busErrorHasNoEffect : Obligations.BusErrorHasNoEffect := by
  intro s rest
  refine ⟨fun off h => ⟨step_read_misaligned h, fun ha => ?_⟩,
    fun off data be h => ⟨fun hl => step_write_illegal h (by tauto), ?_⟩⟩
  · obtain ⟨v, hv⟩ := readReg_resp (afterMove s rest) (regAt off)
    exact ⟨_, v, step_read h ha, hv⟩
  · rintro ⟨ha, rfl⟩
    rw [step_write h ha]
    exact writeReg_keeps_resp _ _ _

/-! ## Ignored writes (R30, R54) -/

/-- CONFIG and CAP_SIZE, and MATCH_OFFSET to WIND_LABEL, take no write, IDLE or BUSY. -/
theorem writeReg_lowReg_readOnly (s : State) (w : Nat) (data : Word)
    (hw : w < 2 ∨ (7 ≤ w ∧ w < 16)) : writeReg s (lowReg w) data = .done s := by
  rcases hw with hlow | ⟨hge, hlt⟩
  · interval_cases w <;> exact writeReg_kept data rfl
  · interval_cases w <;> exact writeReg_kept data rfl

theorem writeReg_frameBuf (s : State) (w : Nat) (data : Word) :
    writeReg s (.frameBuf w) data = .done s := writeReg_kept data rfl

theorem writeReg_status (s : State) (data : Word) :
    writeReg s .status data = .done { s with errBusyWrite := s.errBusyWrite && !data.getLsbD 16 } :=
  writeReg_kept data rfl

/-- Settles O14: the read-only offsets are those whose rule is the identity and which the busy drop
passes over. -/
theorem readOnlyWritesAreIgnored : Obligations.ReadOnlyWritesAreIgnored := by
  intro s off data rest h ha
  rw [step_write h ha]
  refine ⟨fun hoff => ?_, ?_⟩
  · have ignored : writeReg ((afterMove s rest).answer 0 false) (regAt off) data =
        .done ((afterMove s rest).answer 0 false) := by
      by_cases hlow : off.toNat < 0x40
      · rw [regAt_low hlow]
        exact writeReg_lowReg_readOnly _ _ _ (by omega)
      · rw [regAt_frameBuf (by omega) (by omega)]
        exact writeReg_frameBuf _ _ _
    rw [ignored]
    rfl
  · rintro rfl
    rw [show regAt 0x010 = .status from rfl, writeReg_status]
    rfl

/-! ## Host accesses while IDLE -/

/-- What the outside world does next is no part of a register's value. -/
theorem regValue_afterMove (s : State) (rest : List Stimulus) (r : Reg) :
    regValue (afterMove s rest) r = regValue s r := by
  cases r <;> rfl

theorem step_read_idle {s : State} {off : Offset} {rest : List Stimulus} (he : s.eng = .idle)
    (hi : s.inputs = .bus (.read off) :: rest) (ha : off.toNat % 4 = 0) :
    step s = .next { s with inputs := rest, resp := some ⟨regValue s (regAt off), false⟩ } := by
  have hmoved : (afterMove s rest).eng = .idle := he
  rw [step_read ⟨hi, .inl he⟩ ha, readReg_idle hmoved, regValue_afterMove, afterMove_idle he]
  rfl

theorem step_write_idle {s : State} {off : Offset} {data : Word} {rest : List Stimulus}
    (he : s.eng = .idle) (hi : s.inputs = .bus (.write off data 0b1111) :: rest)
    (ha : off.toNat % 4 = 0) :
    step s = (writeRule { s with inputs := rest, resp := some ⟨0, false⟩ }
      (regAt off) data).outcome := by
  have hanswered : ((afterMove s rest).answer 0 false).eng = .idle := he
  rw [step_write ⟨hi, .inl he⟩ ha, writeReg_idle hanswered, afterMove_idle he]
  rfl

/-- The word slot of FRAME_BUF that an offset reaches (R16, R56). -/
theorem regAt_frameBuf_slot {off : Offset} {w : Nat} (hw : w < 16)
    (hoff : off.toNat = 0x100 + 4 * w) : regAt off = .frameBuf w := by
  rw [regAt_frameBuf (by omega) (by omega)]
  congr 1
  omega

/-- The word slot of the CAP_MEM window that an offset reaches (R16, R55). -/
theorem regAt_capMem_slot {off : Offset} {w : Nat} (hoff : off.toNat = 0x1000 + 4 * w) :
    regAt off = .capMem w := by
  rw [regAt_capMem (by omega)]
  congr 1
  omega

/-! ## The words of FRAME_BUF (R56) -/

theorem frameWordRead_byte (s : State) {w i : Nat} (hw : w < 3 * s.build.repeatCount)
    (hi : i < 4) :
    (frameWordRead s w).extractLsb' (24 - 8 * i) 8 = frameByte s (4 * w + i) := by
  rw [frameWordRead, if_pos hw, readWord_byte _ _ _ hi, frameByte, Nat.add_assoc]

theorem frameWordRead_reserved (s : State) {w : Nat} (hw : 3 * s.build.repeatCount ≤ w) :
    frameWordRead s w = 0 := by
  rw [frameWordRead, if_neg (Nat.not_lt.2 hw)]

/-- Settles O19: a slot below 3 x REPEAT_COUNT reads as the word of its four bytes, another as 0. -/
theorem frameBufferReads : Obligations.FrameBufferReads := by
  intro s off w rest _ he hi hw hoff
  refine ⟨frameWordRead s w, ?_, fun hlt i hi4 => frameWordRead_byte s hlt hi4,
    frameWordRead_reserved s⟩
  rw [step_read_idle he hi (by omega), regAt_frameBuf_slot hw hoff]
  rfl

/-! ## The words of CAP_MEM (R55) -/

theorem Memory.read_writeWord_other (m : Memory) (a : Nat) (v : Word) (b : Nat)
    (h : b < a ∨ a + 4 ≤ b) : (m.writeWord a v).read b = m.read b :=
  Memory.read_writeBytes_other _ _ _ _ h

/-- Bit k of byte i of a written word is bit 8i + k of the word, all counted from the most
significant end. -/
theorem Memory.read_writeWord_getMsbD (m : Memory) (a : Nat) (v : Word) {i k : Nat} (hi : i < 4)
    (hk : k < 8) : ((m.writeWord a v).read (a + i)).getMsbD k = v.getMsbD (8 * i + k) := by
  have hlen : i < (wordBytes v).length := by simpa using hi
  rw [Memory.writeWord, Memory.read_writeBytes_inside _ _ _ _ hlen, wordBytes_getMsbD v i k hi hk]

/-- Where capture bit 32w + k stands: bit k mod 8 of byte k div 8 of word w. -/
theorem capBit_word (s : State) (w k : Nat) :
    capBit s (32 * w + k) = (s.mem.read (capBase + 4 * w + k / 8)).getMsbD (k % 8) := by
  rw [capBit, show capBase + (32 * w + k) / 8 = capBase + 4 * w + k / 8 by omega,
    show (32 * w + k) % 8 = k % 8 by omega]

theorem capWordRead_bit (s : State) {w k : Nat} (hw : w < s.build.capBitsMax / 32) (hk : k < 32) :
    (capWordRead s w).getLsbD (31 - k) = capBit s (32 * w + k) := by
  rw [capWordRead, if_pos hw, readWord_getMsbD _ _ _ hk, capBit_word]

theorem capWordWrite_eq (s : State) {w : Nat} (hw : w < s.build.capBitsMax / 32) (data : Word) :
    capWordWrite s w data = { s with mem := s.mem.writeWord (capBase + 4 * w) data } :=
  if_pos hw

section CaptureWrite

variable {s t : State} {w : Nat} {data : Word}

/-- A capture bit of the written word (R55). -/
theorem capBit_writeWord_same (ht : t.mem = s.mem.writeWord (capBase + 4 * w) data) {k : Nat}
    (hk : k < 32) : capBit t (32 * w + k) = data.getLsbD (31 - k) := by
  rw [capBit_word, ht, Memory.read_writeWord_getMsbD _ _ _ (by omega) (by omega), Nat.div_add_mod,
    BitVec.getMsbD, decide_eq_true hk, Bool.true_and]

/-- A capture bit of any other word. -/
theorem capBit_writeWord_other (ht : t.mem = s.mem.writeWord (capBase + 4 * w) data) {i : Nat}
    (hi : i / 32 ≠ w) : capBit t i = capBit s i := by
  rw [capBit, ht, Memory.read_writeWord_other _ _ _ _ (by omega), capBit]

end CaptureWrite

/-- Settles O20: both ways a word's bits are those of its four bytes, most significant first, and
byte n of CAP_MEM holds the capture bits 8n to 8n + 7. -/
theorem captureWordPlacement : Obligations.CaptureWordPlacement := by
  intro s off w rest he hw hoff
  have haligned : off.toNat % 4 = 0 := by omega
  refine ⟨fun hi => ⟨capWordRead s w, ?_, fun k hk => capWordRead_bit s hw hk⟩, fun data hi => ?_⟩
  · rw [step_read_idle he hi haligned, regAt_capMem_slot hoff]
    rfl
  · refine ⟨{ s with
        inputs := rest, resp := some ⟨0, false⟩, found := false, matchOffset := 0xFFFF,
        mem := s.mem.writeWord (capBase + 4 * w) data }, ?_, rfl,
      fun k hk => capBit_writeWord_same rfl hk, fun i hne => capBit_writeWord_other rfl hne,
      fun a hout => Memory.read_writeWord_other _ _ _ _ (hoff ▸ hout)⟩
    rw [step_write_idle he hi haligned, regAt_capMem_slot hoff, writeRule,
      capWordWrite_eq { s with inputs := rest, resp := some ⟨0, false⟩ } hw]
    rfl

/-! ## What no command writes (R65) -/

theorem InputsKept.refl (s : State) : InputsKept s s :=
  ⟨rfl, rfl, rfl, rfl, rfl, rfl, rfl, rfl, rfl, fun _ _ => rfl, fun _ _ => rfl⟩

theorem InputsKept.trans {s t u : State} (h₁ : InputsKept s t) (h₂ : InputsKept t u) :
    InputsKept s u where
  build := h₂.build.trans h₁.build
  invert := h₂.invert.trans h₁.invert
  capLen := h₂.capLen.trans h₁.capLen
  startOffset := h₂.startOffset.trans h₁.startOffset
  errBusyWrite := h₂.errBusyWrite.trans h₁.errBusyWrite
  inputs := h₂.inputs.trans h₁.inputs
  turns := h₂.turns.trans h₁.turns
  resp := h₂.resp.trans h₁.resp
  freeReads := h₂.freeReads.trans h₁.freeReads
  capMem a ha := (h₂.capMem a ha).trans (h₁.capMem a ha)
  otherMem a ha := (h₂.otherMem a (h₁.build ▸ ha)).trans (h₁.otherMem a ha)

/-- In a legal build FRAME_BUF ends below CAP_MEM (R5, R16). -/
theorem frameBuf_below_capMem {b : Build} (hb : b.Legal) :
    frameBase + 12 * b.repeatCount ≤ capBase := by
  obtain ⟨-, hmax, -⟩ := hb
  unfold frameBase capBase
  omega

/-- A write of the STATUS fields, MATCH_OFFSET, the result registers, the engine and FRAME_BUF. -/
theorem InputsKept.of_engineFields {s t : State} (hb : s.build.Legal)
    (ht : t = { s with
      eng := t.eng, matchOffset := t.matchOffset, done := t.done, rejected := t.rejected,
      reason := t.reason, found := t.found, extracted := t.extracted, valid := t.valid,
      reading := t.reading, results := t.results, mem := t.mem })
    (hmem : ∀ a, a < frameBase ∨ frameBase + 12 * s.build.repeatCount ≤ a →
      t.mem.read a = s.mem.read a) : InputsKept s t := by
  have hcap : ∀ a, capBase ≤ a → t.mem.read a = s.mem.read a := fun a ha =>
    hmem a (.inr ((frameBuf_below_capMem hb).trans ha))
  rw [ht]
  exact ⟨rfl, rfl, rfl, rfl, rfl, rfl, rfl, rfl, rfl, hcap, hmem⟩

/-- A piece of a command's pseudocode keeps the inputs, whether it goes on or rejects. -/
def KeepsInputs (f : State → Progress) : Prop :=
  ∀ s, s.build.Legal → InputsKept s (f s).state

theorem KeepsInputs.andThen {f g : State → Progress} (hf : KeepsInputs f) (hg : KeepsInputs g) :
    KeepsInputs fun s => (f s).andThen g := by
  intro s hb
  have hs := hf s hb
  show InputsKept s ((f s).andThen g).state
  cases hp : f s with
  | running u =>
    rw [hp] at hs
    exact hs.trans (hg u (hs.build ▸ hb))
  | rejected c u =>
    rw [hp] at hs
    exact hs

theorem keepsInputs_need (flag : State → Bool) : KeepsInputs fun s => need (flag s) s := by
  intro s _
  show InputsKept s (need (flag s) s).state
  rw [need_state]
  exact .refl s

theorem keepsInputs_reject (c : Reason) : KeepsInputs (.rejected c) := fun s _ => .refl s

theorem keepsInputs_invalidateFound : KeepsInputs fun s => .running s.invalidateFound :=
  fun _ hb => .of_engineFields hb rfl fun _ _ => rfl

theorem keepsInputs_locateBody : KeepsInputs locateBody := by
  intro s hb
  rcases firstMatch_or_noMatch s with ⟨k, hk⟩ | hn
  · rw [locateBody_found hk]
    exact .of_engineFields hb rfl fun _ _ => rfl
  · rw [locateBody_notFound hn]
    exact .of_engineFields hb rfl fun _ _ => rfl

theorem keepsInputs_extractBody : KeepsInputs extractBody := by
  intro s hb
  rcases Nat.lt_or_ge s.capLen.toNat (s.matchOffset.toNat + 96 * s.build.repeatCount) with hlt | hge
  · rw [extractBody_insufficient hlt]
    exact .of_engineFields hb rfl fun _ _ => rfl
  · rw [extractBody_enough hge]
    refine .of_engineFields hb rfl fun a ha => ?_
    exact read_writeFrame_other s.invalidateExtracted _ a (by simpa using ha)

theorem keepsInputs_validateBody : KeepsInputs validateBody := by
  intro s hb
  by_cases hc : CopiesAgree s
  · rw [validateBody_agree hc]
    exact .of_engineFields hb rfl fun _ _ => rfl
  · rw [validateBody_mismatch hc]
    exact .of_engineFields hb rfl fun _ _ => rfl

theorem keepsInputs_fieldsBody : KeepsInputs fieldsBody :=
  fun _ hb => .of_engineFields hb rfl fun _ _ => rfl

theorem keepsInputs_clear : KeepsInputs fun s => .running s.invalidateFound.clearFrame :=
  fun s hb => .of_engineFields hb rfl fun a ha => read_clearFrame_other s.invalidateFound a ha

/-- Every command but NOP is the completion of a pseudocode that keeps the inputs. -/
theorem exec_eq_finish_of_keepsInputs {i : Instr} (hi : i ≠ .nop) :
    ∃ f, KeepsInputs f ∧ ∀ s, exec i s = (f s).finish := by
  cases i with
  | nop => contradiction
  | decode =>
    exact ⟨_, (((keepsInputs_invalidateFound.andThen keepsInputs_locateBody).andThen
      keepsInputs_extractBody).andThen keepsInputs_validateBody).andThen keepsInputs_fieldsBody,
      fun _ => rfl⟩
  | locate => exact ⟨_, keepsInputs_locateBody, fun _ => rfl⟩
  | extract =>
    exact ⟨_, (keepsInputs_need State.found).andThen keepsInputs_extractBody, fun _ => rfl⟩
  | validate =>
    exact ⟨_, (keepsInputs_need State.extracted).andThen keepsInputs_validateBody, fun _ => rfl⟩
  | fields =>
    exact ⟨_, (keepsInputs_need State.valid).andThen keepsInputs_fieldsBody, fun _ => rfl⟩
  | clear => exact ⟨_, keepsInputs_clear, fun _ => rfl⟩
  | illegal7 => exact ⟨_, keepsInputs_reject .illegalCommand, fun _ => rfl⟩
  | illegalMbz _ _ => exact ⟨_, keepsInputs_reject .illegalCommand, fun _ => rfl⟩

/-- The completion step (R78) writes only the record and leaves the engine IDLE. -/
theorem finish_inputsKept {p : Progress} {t : State} (hb : p.state.build.Legal)
    (h : p.finish = .next t) : InputsKept p.state t ∧ t.eng = .idle := by
  cases p with
  | running u =>
    obtain rfl : u.recordComplete = t := by simpa using h
    exact ⟨.of_engineFields hb rfl fun _ _ => rfl, rfl⟩
  | rejected c u =>
    obtain rfl : u.recordReject c = t := by simpa using h
    exact ⟨.of_engineFields hb rfl fun _ _ => rfl, rfl⟩

/-- Settles O42: each stage keeps the inputs, so their chains do, and so does the completion. -/
theorem commandsKeepTheInputs : Obligations.CommandsKeepTheInputs := by
  intro i s t hb h
  by_cases hi : i = .nop
  · subst hi
    obtain rfl : s = t := by simpa [exec, execNop] using h
    exact ⟨.refl s, fun hne => absurd rfl hne⟩
  · obtain ⟨f, hf, hexec⟩ := exec_eq_finish_of_keepsInputs hi
    rw [hexec] at h
    have hbody := hf s hb
    obtain ⟨hfinish, hidle⟩ := finish_inputsKept (hbody.build ▸ hb) h
    exact ⟨hbody.trans hfinish, fun _ => hidle⟩

end Sys2Proof.Machine
end

section
/-! PROOFS. The commands behind their words (30_encoding.md): NOP is the only word that changes
nothing (R72). -/

namespace Sys2Proof.Machine

/-- A completion, in either way, leaves the engine IDLE and DONE set (R78). -/
theorem finish_idle_done (p : Progress) :
    ∃ t, p.finish = .next t ∧ t.eng = .idle ∧ t.done = true := by
  rcases finish_cases p with ⟨s, -, hfinish⟩ | ⟨c, s, -, hfinish⟩
  · exact ⟨s.recordComplete, hfinish, s.recordComplete_eng, s.recordComplete_done⟩
  · exact ⟨s.recordReject c, hfinish, s.recordReject_eng c, s.recordReject_done c⟩

/-- Every command but NOP answers a completed state. -/
theorem exec_idle_done {i : Instr} (hi : i ≠ .nop) (s : State) :
    ∃ t, exec i s = .next t ∧ t.eng = .idle ∧ t.done = true := by
  obtain ⟨f, -, hexec⟩ := exec_eq_finish_of_keepsInputs hi
  rw [hexec]
  exact finish_idle_done (f s)

/-- Settles O8: a word other than 0 decodes to a command that completes, and a completed state has
DONE set, so it is not the state that was pending. -/
theorem nopChangesNothing : Obligations.NopChangesNothing := by
  refine ⟨decode_zero, fun _ => rfl, fun s w hw _ hpending => ?_⟩
  have hnop : decode w ≠ .nop := fun h => hw ((decode_eq_nop_iff w).1 h)
  obtain ⟨t, hexec, hidle, hdone⟩ := exec_idle_done hnop s
  have hne : t ≠ s := by
    rintro rfl
    simp [hpending] at hdone
  exact ⟨t, hexec, hne, hidle, hdone⟩

end Sys2Proof.Machine
end

section
/-! PROOFS. The command sequencer (40_command_sequencer.md): the precondition of a stage (R80), the
issue of a command and its drop (R77, R82, R85), CLEAR (R83) and the illegal words (R84). -/

namespace Sys2Proof.Machine

/-! ## The precondition of a stage (R80) -/

/-- A stage with its flag clear records PRECONDITION on the state it found. -/
theorem need_finish_clear {flag : Bool} (h : flag = false) (s : State) (f : State → Progress) :
    ((need flag s).andThen f).finish = .next (s.recordReject .precondition) := by
  rw [need_neg h, andThen_rejected, finish_rejected]

/-- A stage with its flag set is its body. -/
theorem need_finish_set {flag : Bool} (h : flag = true) (s : State) (f : State → Progress) :
    ((need flag s).andThen f).finish = (f s).finish := by
  rw [need_pos h, andThen_running]

/-- The REASON that the completion of a command records (R78). -/
def Progress.code : Progress → Reason
  | .running _ => .none
  | .rejected c _ => c

theorem finish_code (p : Progress) : ∃ t, p.finish = .next t ∧ t.reason = p.code := by
  cases p with
  | running s => exact ⟨s.recordComplete, finish_running s, s.recordComplete_reason⟩
  | rejected c s => exact ⟨s.recordReject c, finish_rejected c s, s.recordReject_reason c⟩

/-- A piece of a command's pseudocode that asks for no flag: it does not end as PRECONDITION. -/
def NeedsNoFlag (f : State → Progress) : Prop := ∀ s, (f s).code ≠ .precondition

theorem NeedsNoFlag.andThen {f g : State → Progress} (hf : NeedsNoFlag f) (hg : NeedsNoFlag g) :
    NeedsNoFlag fun s => (f s).andThen g := by
  intro s
  show ((f s).andThen g).code ≠ .precondition
  have hs := hf s
  cases hp : f s with
  | running u => exact hg u
  | rejected c u => rwa [hp] at hs

/-- What asks for no flag completes with another outcome. -/
theorem NeedsNoFlag.finish {f : State → Progress} (hf : NeedsNoFlag f) (s : State) :
    ∃ t, (f s).finish = .next t ∧ t.reason ≠ .precondition := by
  obtain ⟨t, hfinish, hreason⟩ := finish_code (f s)
  exact ⟨t, hfinish, hreason ▸ hf s⟩

theorem needsNoFlag_running (f : State → State) : NeedsNoFlag fun s => .running (f s) := by
  intro s
  simp [Progress.code]

theorem needsNoFlag_locateBody : NeedsNoFlag locateBody := by
  intro s
  rcases firstMatch_or_noMatch s with ⟨k, hk⟩ | hn
  · simp [locateBody_found hk, Progress.code]
  · simp [locateBody_notFound hn, Progress.code]

theorem needsNoFlag_extractBody : NeedsNoFlag extractBody := by
  intro s
  rcases Nat.lt_or_ge s.capLen.toNat (s.matchOffset.toNat + 96 * s.build.repeatCount) with hlt | hge
  · simp [extractBody_insufficient hlt, Progress.code]
  · simp [extractBody_enough hge, Progress.code]

theorem needsNoFlag_validateBody : NeedsNoFlag validateBody := by
  intro s
  by_cases hc : CopiesAgree s
  · simp [validateBody_agree hc, Progress.code]
  · simp [validateBody_mismatch hc, Progress.code]

theorem needsNoFlag_fieldsBody : NeedsNoFlag fieldsBody := needsNoFlag_running _

/-- DECODE runs the bodies of the stages, none of which asks for a flag (R81). -/
theorem needsNoFlag_decodeStages :
    NeedsNoFlag fun s =>
      (((Progress.running s.invalidateFound).andThen locateBody).andThen extractBody).andThen
        validateBody |>.andThen fieldsBody :=
  ((((needsNoFlag_running State.invalidateFound).andThen needsNoFlag_locateBody).andThen
    needsNoFlag_extractBody).andThen needsNoFlag_validateBody).andThen needsNoFlag_fieldsBody

/-- Settles O32: the check of the flag is the only place where PRECONDITION comes from, and it comes
before the first write of the stage. -/
theorem preconditionWritesNothing : Obligations.PreconditionWritesNothing := by
  intro s
  refine ⟨fun h => need_finish_clear h s extractBody, fun h => need_finish_clear h s validateBody,
    fun h => need_finish_clear h s fieldsBody, fun h => ?extract, fun h => ?validate,
    fun h => ?fields, needsNoFlag_locateBody.finish s, needsNoFlag_decodeStages.finish s,
    (needsNoFlag_running fun s => s.invalidateFound.clearFrame).finish s, rfl⟩
  case extract =>
    obtain ⟨t, hbody, hreason⟩ := needsNoFlag_extractBody.finish s
    exact ⟨t, (need_finish_set h s extractBody).trans hbody, hreason⟩
  case validate =>
    obtain ⟨t, hbody, hreason⟩ := needsNoFlag_validateBody.finish s
    exact ⟨t, (need_finish_set h s validateBody).trans hbody, hreason⟩
  case fields =>
    obtain ⟨t, hbody, hreason⟩ := needsNoFlag_fieldsBody.finish s
    exact ⟨t, (need_finish_set h s fieldsBody).trans hbody, hreason⟩

/-! ## A write to CMD (R77, R82, R85) -/

/-- While IDLE the port answers the write and the word is issued. -/
theorem step_cmd_idle {s : State} {w : Word} {rest : List Stimulus} (he : s.eng = .idle)
    (h : HostMoves s (.bus (.write cmdOffset w 0b1111)) rest) :
    step s = (issue { s with inputs := rest, resp := some ⟨0, false⟩ } w).outcome := by
  obtain ⟨hinputs, -⟩ := h
  rw [step_write_idle he hinputs (by decide)]
  rfl

/-- While BUSY the write is dropped. -/
theorem step_cmd_busy {s : State} {p w : Word} {rest : List Stimulus} (he : s.eng = .busy p)
    (h : HostMoves s (.bus (.write cmdOffset w 0b1111)) rest) :
    step s = .next ((afterMove s rest).answer 0 false).busyDrop := by
  have hanswered : ((afterMove s rest).answer 0 false).eng = .busy p := he
  rw [step_write h (by decide), writeReg_dropped hanswered w rfl, Action.outcome_done]

/-- Settles O10: the engine decides between issue and drop, and of the issued words 0 is skipped. -/
theorem commandWriteIssuesOrIsDropped : Obligations.CommandWriteIssuesOrIsDropped := by
  intro s w rest h
  refine ⟨fun he hw => ?nop, fun he hw => ?issued, fun p he => ?dropped⟩
  case nop =>
    subst hw
    rw [step_cmd_idle he h, issue_nop]
    rfl
  case issued =>
    rw [step_cmd_idle he h, issue_other _ hw]
    rfl
  case dropped =>
    rw [step_cmd_busy he h, afterMove_busy he]
    rfl

/-! ## CLEAR (R83) -/

theorem exec_clear (s : State) :
    exec .clear s = .next s.invalidateFound.clearFrame.recordComplete := rfl

/-- Settles O38: the flags, MATCH_OFFSET and the results are those of `InvalidateFound()`, and the
memory is that of the frame buffer cleared. -/
theorem clearReturnsTheResultSide : Obligations.ClearReturnsTheResultSide :=
  ⟨by decide, fun s => ⟨_, exec_clear s, rfl, frameByte_clearFrame s.invalidateFound,
    read_clearFrame_other s.invalidateFound⟩⟩

/-! ## The illegal words (R71, R84) -/

theorem mbzField_toNat (w : Word) : (mbzField w).toNat = w.toNat / 8 := by
  have := w.isLt
  simp only [mbzField, BitVec.extractLsb'_toNat, Nat.shiftRight_eq_div_pow]
  omega

theorem decode_of_ge_eight {w : Word} (h : 8 ≤ w.toNat) :
    decode w = .illegalMbz (mbzField w) (opField w) := by
  have hmbz : mbzField w ≠ 0 := by
    intro h0
    have hdiv : w.toNat / 8 = 0 := by rw [← mbzField_toNat, h0]; rfl
    omega
  exact if_neg hmbz

theorem exec_illegal7 (s : State) :
    exec .illegal7 s = .next (s.recordReject .illegalCommand) := rfl

theorem exec_illegalMbz (m : BitVec 29) (o : BitVec 3) (s : State) :
    exec (.illegalMbz m o) s = .next (s.recordReject .illegalCommand) := rfl

/-- Settles O4: the word 7 is the reserved row and every word from 8 on the default row, and both
rows are the rejection alone. -/
theorem illegalWordsChangeOnlyTheRecord : Obligations.IllegalWordsChangeOnlyTheRecord := by
  rintro w s (rfl | h)
  · rw [show decode 7 = .illegal7 by decide, exec_illegal7]
    rfl
  · rw [decode_of_ge_eight h, exec_illegalMbz]
    rfl

end Sys2Proof.Machine
end

section
/-! PROOFS. The preamble detector (41_preamble_detector.md): the two ways LOCATE completes (R90). -/

namespace Sys2Proof.Machine

/-- LOCATE is its body: it checks no flag first (R90). -/
theorem exec_locate (s : State) : exec .locate s = (locateBody s).finish := rfl

/-- A first match is recorded on the state with FOUND and all that follows from it invalidated. -/
theorem exec_locate_found {s : State} {k : Nat} (h : FirstMatch s k) :
    exec .locate s = .next (State.recordComplete
      { s.invalidateFound with found := true, matchOffset := BitVec.ofNat 16 k }) := by
  rw [exec_locate, locateBody_found h, finish_running]

/-- Without a match there is the invalidation and the rejection, and no other write. -/
theorem exec_locate_notFound {s : State} (h : NoMatch s) :
    exec .locate s = .next (s.invalidateFound.recordReject .preambleNotFound) := by
  rw [exec_locate, locateBody_notFound h, finish_rejected]

/-- Settles O26: the search loop ends at the first match exactly where there is one, and each of its
two ends writes the invalidation of FOUND, its own outcome and the record. -/
theorem locateFindsTheFirstMatch : Obligations.LocateFindsTheFirstMatch := by
  refine ⟨by decide, fun s => ⟨fun k hfirst => ?found, fun hnone => ?notFound⟩⟩
  case found =>
    rw [exec_locate_found hfirst]
    rfl
  case notFound =>
    rw [exec_locate_notFound hnone]
    rfl

end Sys2Proof.Machine
end

section
/-! PROOFS. The frame extractor (42_frame_extractor.md): the two ways EXTRACT completes once FOUND
is set (R93 to R96). -/

namespace Sys2Proof.Machine

/-- With FOUND set EXTRACT is its body (R80, R95). -/
theorem exec_extract_found {s : State} (hfound : s.found = true) :
    exec .extract s = (extractBody s).finish :=
  need_finish_set hfound s extractBody

/-- `Pack(k)` writes FRAME_BUF and no other byte (R94). -/
theorem read_writeFrame_packed_other (s u : State) (k a : Nat)
    (h : a < frameBase ∨ frameBase + 12 * s.build.repeatCount ≤ a) :
    (u.writeFrame (packed s k)).mem.read a = u.mem.read a :=
  read_writeFrame_other u (packed s k) a (by simpa using h)

/-- With enough bits the invalidation is followed by the packing, and the command completes. -/
theorem exec_extract_enough {s : State} (hfound : s.found = true)
    (henough : s.matchOffset.toNat + 96 * s.build.repeatCount ≤ s.capLen.toNat) :
    exec .extract s = .next (State.recordComplete
      { s.invalidateExtracted.writeFrame (packed s s.matchOffset.toNat) with
        extracted := true }) := by
  rw [exec_extract_found hfound, extractBody_enough henough, finish_running]

/-- Without them there is the invalidation and the rejection, and no packing (R96). -/
theorem exec_extract_insufficient {s : State} (hfound : s.found = true)
    (hshort : s.capLen.toNat < s.matchOffset.toNat + 96 * s.build.repeatCount) :
    exec .extract s = .next (s.invalidateExtracted.recordReject .insufficientBits) := by
  rw [exec_extract_found hfound, extractBody_insufficient hshort, finish_rejected]

/-- Settles O29: the memory after a success is that of the packing, which holds the view bits in
FRAME_BUF and is the old memory elsewhere; the registers are those of the invalidation with
EXTRACTED set. -/
theorem extractCopiesTheFrames : Obligations.ExtractCopiesTheFrames := by
  refine ⟨by decide, fun s hfound => ⟨fun henough => ?enough, fun hshort => ?short⟩⟩
  case enough =>
    refine ⟨_, exec_extract_enough hfound henough, rfl, fun j b hj hb => ?packed,
      fun a ha => ?other⟩
    case packed =>
      exact frameByte_packed s _ s.matchOffset.toNat j b hj hb rfl
    case other =>
      exact read_writeFrame_packed_other s s.invalidateExtracted s.matchOffset.toNat a ha
  case short =>
    exact ⟨_, exec_extract_insufficient hfound hshort, rfl⟩

/-- Settles O30: neither the invalidation nor the record of a rejection writes to memory. -/
theorem insufficientBitsLeavesTheBuffer : Obligations.InsufficientBitsLeavesTheBuffer := by
  intro s hfound hshort
  rw [exec_extract_insufficient hfound hshort]
  rfl

end Sys2Proof.Machine
end

section
/-! PROOFS. The repeat validator (43_repeat_validator.md): the two ways VALIDATE completes once
EXTRACTED is set (R98 to R100). -/

namespace Sys2Proof.Machine

/-- With EXTRACTED set VALIDATE is its body (R80, R100). -/
theorem exec_validate_extracted {s : State} (hextracted : s.extracted = true) :
    exec .validate s = (validateBody s).finish :=
  need_finish_set hextracted s validateBody

/-- Copies that agree set VALID after the invalidation, and the command completes. -/
theorem exec_validate_agree {s : State} (hextracted : s.extracted = true)
    (hagree : CopiesAgree s) :
    exec .validate s = .next (State.recordComplete { s.invalidateValid with valid := true }) := by
  rw [exec_validate_extracted hextracted, validateBody_agree hagree, finish_running]

/-- A mismatch leaves the invalidation and the rejection, whichever byte it stands in (R99). -/
theorem exec_validate_mismatch {s : State} (hextracted : s.extracted = true)
    (hmismatch : ¬ CopiesAgree s) :
    exec .validate s = .next (s.invalidateValid.recordReject .repeatMismatch) := by
  rw [exec_validate_extracted hextracted, validateBody_mismatch hmismatch, finish_rejected]

/-- Settles O33: the verdict is `CopiesAgree`, which any one differing compared byte refutes; neither
outcome writes more than the invalidation, VALID and the completion record. -/
theorem validateVerdict : Obligations.ValidateVerdict := by
  refine ⟨by decide, fun s hextracted =>
    ⟨fun hagree => ?agree, fun r p hfirst hlast hp hdiffers => ?mismatch⟩⟩
  case agree =>
    rw [exec_validate_agree hextracted hagree]
    rfl
  case mismatch =>
    have hmismatch : ¬ CopiesAgree s := fun hagree => hdiffers (hagree r p hfirst hlast hp)
    rw [exec_validate_mismatch hextracted hmismatch]
    rfl

end Sys2Proof.Machine
end

section
/-! PROOFS. The bit-packed field decoder (44_bitpacked_field_decoder.md): the two ways FIELDS
completes (R80, R112) and the numbers in the result registers (R34 to R40). -/

namespace Sys2Proof.Machine

/-! ## The result registers as numbers (R34 to R40) -/

/-- DEVICE holds the device id, the battery nibble and the LOW bit side by side (R34). -/
theorem readingOf_device_toNat (b : Nat → Byte) :
    (readingOf b).device.toNat = (b 3).toNat + 256 * ((b 4).toNat / 16) +
      65536 * (if (b 4).toNat / 16 = 15 then 1 else 0) := by
  show BitVec.toNat (w := 15 + 1 + 4 + 4 + 8) (_ ++ _) = _
  simp only [append_toNat, ofBool_toNat, batteryLow_toNat, batteryNibble, highNibble_toNat, deviceId,
    BitVec.toNat_ofNat]
  omega

/-- TEMPERATURE is TEMP_TENTHS with zeros above (R35). -/
theorem readingOf_temperature_toNat (b : Nat → Byte) :
    (readingOf b).temperature.toNat = (b 4).toNat % 16 * 256 + (b 5).toNat := by
  rw [readingOf, BitVec.toNat_setWidth_of_le (by decide), tempTenths_toNat]

/-- HUMIDITY is HUMIDITY_PCT with zeros above (R36). -/
theorem readingOf_humidity_toNat (b : Nat → Byte) :
    (readingOf b).humidity.toNat = (b 6).toNat := by
  rw [readingOf, BitVec.toNat_setWidth_of_le (by decide), humidityPct]

/-- RAIN is RAIN_STEPS with zeros above (R37). -/
theorem readingOf_rain_toNat (b : Nat → Byte) :
    (readingOf b).rain.toNat = (b 7).toNat * 16 + (b 8).toNat / 16 := by
  rw [readingOf, BitVec.toNat_setWidth_of_le (by decide), rainSteps_toNat]

/-- RAIN_VOLUME is RAIN_HMM with zeros above (R38). -/
theorem readingOf_rainVolume_toNat (b : Nat → Byte) :
    (readingOf b).rainVolume.toNat = ((b 7).toNat * 16 + (b 8).toNat / 16) * 75 := by
  rw [readingOf, BitVec.toNat_setWidth_of_le (by decide), rainHmm_toNat]

/-- WIND_SPEED is WIND_SPEED_KMH with zeros above (R39). -/
theorem readingOf_windSpeed_toNat (b : Nat → Byte) :
    (readingOf b).windSpeed.toNat = (b 8).toNat % 16 * 16 + (b 9).toNat / 16 := by
  rw [readingOf, BitVec.toNat_setWidth_of_le (by decide), windSpeedKmh_toNat]

/-- WIND_DIR holds the direction index below the tenths of a degree (R40). -/
theorem readingOf_windDir_toNat (b : Nat → Byte) :
    (readingOf b).windDir.toNat =
      (b 9).toNat % 16 + 65536 * ((b 9).toNat % 16 * 225) := by
  show BitVec.toNat (w := 4 + 12 + 12 + 4) (_ ++ _) = _
  simp only [append_toNat, dirTenthsDeg_toNat, dirIndex_toNat, BitVec.toNat_ofNat]
  omega

/-! ## The two ways FIELDS completes -/

/-- With VALID set the reading of copy 0 is written and the command completes: the invalidation
before it leaves no trace, for it clears only what is then written (R112). -/
theorem exec_fields_valid {s : State} (hvalid : s.valid = true) :
    exec .fields s = .next (State.recordComplete
      { s with results := readingOf (frameByte s), reading := true }) :=
  need_finish_set hvalid s fieldsBody

/-- With VALID clear there is the rejection alone (R80). -/
theorem exec_fields_invalid {s : State} (hvalid : s.valid = false) :
    exec .fields s = .next (s.recordReject .precondition) :=
  need_finish_clear hvalid s fieldsBody

/-- Settles O35: the registers are those of the reading of copy 0, each with its number, and the
completion writes beside them only READING and the record. -/
theorem fieldsWritesTheNumbers : Obligations.FieldsWritesTheNumbers := by
  intro s hvalid b
  exact ⟨_, exec_fields_valid hvalid, rfl, readingOf_device_toNat _, readingOf_temperature_toNat _,
    readingOf_humidity_toNat _, readingOf_rain_toNat _, readingOf_rainVolume_toNat _,
    readingOf_windSpeed_toNat _, readingOf_windDir_toNat _⟩

/-- Settles O37: the reading is the same for the two memories, and memory decides nothing else:
with VALID clear FIELDS is rejected whatever the frame buffer holds. -/
theorem fieldsReadsOnlyBytes3To9 : Obligations.FieldsReadsOnlyBytes3To9 := by
  intro s m hbytes
  have hreading : readingOf (frameByte { s with mem := m }) = readingOf (frameByte s) :=
    readingOf_congr hbytes
  rcases Bool.eq_false_or_eq_true s.valid with hvalid | hclear
  case inl =>
    refine ⟨_, exec_fields_valid hvalid, ?_⟩
    rw [exec_fields_valid (s := { s with mem := m }) hvalid, hreading]
    rfl
  case inr =>
    exact ⟨_, exec_fields_invalid hclear, exec_fields_invalid (s := { s with mem := m }) hclear⟩

end Sys2Proof.Machine
end

section
/-! PROOFS. Systems of several instances (60_exceptions.md): a step of one of them is its own step,
which always answers a next state (R126), and moves none of the others (R124). -/

namespace Sys2Proof.Machine

/-! ## Every step answers a next state (R88, R126) -/

/-- Every command answers a next state: NOP the same one, every other its completion (R72, R78). -/
theorem exec_next (i : Instr) (s : State) : ∃ t, exec i s = .next t := by
  by_cases hnop : i = .nop
  · subst hnop
    exact ⟨s, rfl⟩
  · obtain ⟨t, hexec, -, -⟩ := exec_idle_done hnop s
    exact ⟨t, hexec⟩

/-- Every step answers a next state, whoever makes it. -/
theorem step_next (s : State) : ∃ t, step s = .next t := by
  rcases step_who s with ⟨hidle, hinputs⟩ | ⟨stimulus, rest, hmove⟩ | ⟨w, hbusy, hturn⟩
  case inl => exact ⟨s, step_quiet hidle hinputs⟩
  case inr.inl =>
    cases stimulus with
    | bus op =>
      rw [step_bus hmove]
      exact transaction_next _ op
    | wait =>
      rw [step_wait hmove]
      exact transaction_next _ _
    | reset op =>
      obtain ⟨resp, hstep⟩ := step_reset hmove
      exact ⟨_, hstep⟩
  case inr.inr =>
    rw [step_engine hbusy hturn]
    exact exec_next _ _

/-! ## A step in a system of several instances (R124) -/

/-- The system's step of a member puts that member's own next state in its place. -/
theorem stepInstance_eq_set {system : List State} {n : Nat} {s t : State}
    (hs : system[n]? = some s) (ht : step s = .next t) :
    stepInstance system n = .next (system.set n t) := by
  simp only [stepInstance, hs, ht]

/-- Settles O54: the member's own step answers a next state, and putting that in its place in the
list is all the system's step does. -/
theorem instancesShareNothing : Obligations.InstancesShareNothing := by
  intro system n s hs
  obtain ⟨t, ht⟩ := step_next s
  have hn : n < system.length := (List.getElem?_eq_some_iff.1 hs).1
  have hown : (system.set n t)[n]? = some t := List.getElem?_set_self hn
  have hothers : ∀ m, m ≠ n → (system.set n t)[m]? = system[m]? :=
    fun _ hm => List.getElem?_set_ne hm.symm
  exact ⟨t, system.set n t, ht, stepInstance_eq_set hs ht, hown, hothers⟩

end Sys2Proof.Machine
end

section
/-! PROOFS. The reset edge (70_reset_and_hazards.md): every register at its reset value, FRAME_BUF
zero, CAP_MEM as before, whether the engine was IDLE or BUSY (R127 to R129). -/

namespace Sys2Proof.Machine

/-- In a legal build clearing FRAME_BUF leaves every capture bit alone (R129). -/
theorem capBit_clearFrame {s : State} (hb : s.build.Legal) (i : Nat) :
    capBit s.clearFrame i = capBit s i := by
  have hcap : frameBase + 12 * s.build.repeatCount ≤ capBase + i / 8 :=
    (frameBuf_below_capMem hb).trans (Nat.le_add_right _ _)
  rw [capBit, read_clearFrame_other s _ (.inr hcap), capBit]

/-- Settles O24: taking the move off `inputs` changes neither build nor memory, so the reset edge
leaves the memory of the state's own frame buffer cleared, whatever command was in flight. -/
theorem resetEdgeReachesTheResetState : Obligations.ResetEdgeReachesTheResetState := by
  intro s op rest hb hmove
  obtain ⟨resp, hstep⟩ := step_reset hmove
  exact ⟨_, hstep, rfl, frameByte_clearFrame s, read_clearFrame_other s, capBit_clearFrame hb⟩

end Sys2Proof.Machine
end

section
/-! PROOFS. Command words and commands (30_encoding.md): the decoder and the encoder undo each
other, so that every word is exactly one command (R68 to R71). -/

namespace Sys2Proof

/-! ## A word and its two fields (R69) -/

/-- A word is its MBZ field above its OP field. -/
theorem mbzField_append_opField (w : Word) : mbzField w ++ opField w = w := by
  apply BitVec.eq_of_getLsbD_eq
  intro i hi
  simp only [mbzField, opField, BitVec.getLsbD_append, BitVec.getLsbD_extractLsb']
  by_cases hlow : i < 3
  · simp [hlow]
  · simp [hlow, show 3 + (i - 3) = i by omega, show i - 3 < 29 by omega]

theorem mbzField_append (mbz : BitVec 29) (op : BitVec 3) : mbzField (mbz ++ op) = mbz := by
  apply BitVec.eq_of_getLsbD_eq
  intro i hi
  simp only [mbzField, BitVec.getLsbD_extractLsb', BitVec.getLsbD_append]
  simp [hi]

theorem opField_append (mbz : BitVec 29) (op : BitVec 3) : opField (mbz ++ op) = op := by
  apply BitVec.eq_of_getLsbD_eq
  intro i hi
  simp only [opField, BitVec.getLsbD_extractLsb', BitVec.getLsbD_append]
  simp [hi]

/-! ## The rows of the opcode map (R70) -/

/-- The row of a zero MBZ field has its OP value as its word. -/
theorem encode_decodeOp (op : BitVec 3) : encode (decodeOp op) = 0#29 ++ op := by
  revert op
  decide

theorem decodeOp_wellFormed (op : BitVec 3) : (decodeOp op).wellFormed = true := by
  revert op
  decide

theorem decode_of_mbzField_zero {w : Word} (h : mbzField w = 0) : decode w = decodeOp (opField w) :=
  if_pos h

theorem decode_of_mbzField_ne_zero {w : Word} (h : mbzField w ≠ 0) :
    decode w = .illegalMbz (mbzField w) (opField w) := if_neg h

theorem decode_wellFormed (w : Word) : (decode w).wellFormed = true := by
  by_cases hmbz : mbzField w = 0
  · rw [decode_of_mbzField_zero hmbz]
    exact decodeOp_wellFormed _
  · rw [decode_of_mbzField_ne_zero hmbz]
    exact bne_iff_ne.2 hmbz

/-- The encoder undoes the decoder on every word. -/
theorem encode_decode (w : Word) : encode (decode w) = w := by
  by_cases hmbz : mbzField w = 0
  · calc encode (decode w) = 0#29 ++ opField w := by
          rw [decode_of_mbzField_zero hmbz, encode_decodeOp]
      _ = mbzField w ++ opField w := by rw [hmbz]; rfl
      _ = w := mbzField_append_opField w
  · rw [decode_of_mbzField_ne_zero hmbz]
    exact mbzField_append_opField w

/-- Two words of one command are one word. -/
theorem decode_injective {v w : Word} (h : decode v = decode w) : v = w := by
  rw [← encode_decode v, h, encode_decode]

/-- The decoder undoes the encoder on the default row. -/
theorem decode_append {mbz : BitVec 29} (hmbz : mbz ≠ 0) (op : BitVec 3) :
    decode (mbz ++ op) = .illegalMbz mbz op := by
  have hfield : mbzField (mbz ++ op) ≠ 0 := by rwa [mbzField_append]
  rw [decode_of_mbzField_ne_zero hfield, mbzField_append, opField_append]

/-- Settles O1: a row of one exact word is decoded by evaluation, and the default row keeps both of
its fields in its word. -/
theorem decodeEncodeRoundTrip : Obligations.DecodeEncodeRoundTrip := by
  intro i hwf
  cases i with
  | illegalMbz mbz op => exact decode_append (bne_iff_ne.1 hwf) op
  | nop | decode | locate | extract | validate | fields | clear | illegal7 => decide

/-- Settles O2: the decoder has the encoder as its left inverse, so it is injective. -/
theorem everyWordIsOneCommand : Obligations.EveryWordIsOneCommand :=
  fun w => ⟨decode_wellFormed w, encode_decode w, fun _ h => decode_injective h⟩

/-- Settles O3: the words of the map, each decoded by evaluation. -/
theorem opcodeMapWords : Obligations.OpcodeMapWords := by
  unfold Obligations.OpcodeMapWords
  decide

end Sys2Proof
end

section
/-! PROOFS. What the stages depend on: the capture below CAP_LEN (R66) and the bytes of FRAME_BUF.
Two states alike in these take the same way through a stage. -/

namespace Sys2Proof.Machine

/-! ## The capture below CAP_LEN (R57, R66) -/

/-- The two states have the same build, search parameters and view below CAP_LEN. -/
structure SameCapture (s t : State) : Prop where
  build : t.build = s.build
  capLen : t.capLen = s.capLen
  startOffset : t.startOffset = s.startOffset
  view : ∀ j < s.capLen.toNat, view t j = view s j

/-- Equal memory and polarity give equal views. -/
theorem SameCapture.of_mem {s t : State} (hbuild : t.build = s.build)
    (hcapLen : t.capLen = s.capLen) (hstart : t.startOffset = s.startOffset)
    (hinvert : t.invert = s.invert) (hmem : ∀ a, capBase ≤ a → t.mem.read a = s.mem.read a) :
    SameCapture s t :=
  ⟨hbuild, hcapLen, hstart, fun _ _ => view_congr hinvert (hmem _ (Nat.le_add_right _ _))⟩

theorem InputsKept.sameCapture {s t : State} (h : InputsKept s t) : SameCapture s t :=
  .of_mem h.build h.capLen h.startOffset h.invert h.capMem

theorem SameCapture.preambleAt_iff {s t : State} (h : SameCapture s t) {k : Nat}
    (hk : k + 24 ≤ s.capLen.toNat) : PreambleAt t k ↔ PreambleAt s k :=
  PreambleAt.congr fun j hj => h.view (k + j) (by omega)

/-- The search has the same result. -/
theorem SameCapture.firstMatch_iff {s t : State} (h : SameCapture s t) (k : Nat) :
    FirstMatch t k ↔ FirstMatch s k := by
  have hpreamble : ∀ j, j ≤ k → k + 24 ≤ s.capLen.toNat → (PreambleAt t j ↔ PreambleAt s j) :=
    fun j hj hk => h.preambleAt_iff (by omega)
  constructor
  · rintro ⟨hstart, hfits, hhere, hfirst⟩
    rw [h.startOffset] at hstart hfirst
    rw [h.capLen] at hfits
    exact ⟨hstart, hfits, (hpreamble k le_rfl hfits).1 hhere,
      fun j h1 h2 hj => hfirst j h1 h2 ((hpreamble j h2.le hfits).2 hj)⟩
  · rintro ⟨hstart, hfits, hhere, hfirst⟩
    refine ⟨h.startOffset ▸ hstart, h.capLen ▸ hfits, (hpreamble k le_rfl hfits).2 hhere,
      fun j h1 h2 hj => ?_⟩
    rw [h.startOffset] at h1
    exact hfirst j h1 h2 ((hpreamble j h2.le hfits).1 hj)

theorem SameCapture.noMatch_iff {s t : State} (h : SameCapture s t) : NoMatch t ↔ NoMatch s := by
  unfold NoMatch
  rw [h.startOffset, h.capLen]
  exact forall_congr' fun k => forall_congr' fun _ => forall_congr' fun hk =>
    not_congr (h.preambleAt_iff hk)

/-- The packing of bits below CAP_LEN has the same bytes. -/
theorem SameCapture.packed_eq {s t : State} (h : SameCapture s t) {k : Nat}
    (hk : k + 96 * s.build.repeatCount ≤ s.capLen.toNat) : packed t k = packed s k := by
  unfold packed
  rw [h.build]
  refine List.map_congr_left fun j hj => viewBits_congr fun b hb => h.view _ ?_
  have hj : j < 12 * s.build.repeatCount := List.mem_range.1 hj
  omega

/-! ## The bytes of FRAME_BUF (R43) -/

/-- The two states have the same build and the same bytes in FRAME_BUF. -/
structure SameFrame (s t : State) : Prop where
  build : t.build = s.build
  frame : ∀ j < 12 * s.build.repeatCount, frameByte t j = frameByte s j

theorem SameFrame.of_mem {s t : State} (hbuild : t.build = s.build) (hmem : t.mem = s.mem) :
    SameFrame s t :=
  ⟨hbuild, fun j _ => congrArg (Memory.read · (frameBase + j)) hmem⟩

/-- A compared byte stands in FRAME_BUF. -/
theorem compared_lt {b : Build} {r p : Nat} (hr : r < b.repeatCount)
    (hp : p < if b.comparePause then 12 else 11) : 12 * r + p < 12 * b.repeatCount := by
  split at hp <;> omega

theorem SameFrame.copiesAgree_iff {s t : State} (h : SameFrame s t) :
    CopiesAgree t ↔ CopiesAgree s := by
  unfold CopiesAgree
  rw [h.build]
  refine forall_congr' fun r => forall_congr' fun p => forall_congr' fun h1 =>
    forall_congr' fun hr => forall_congr' fun hp => ?_
  have hlt := compared_lt hr hp
  rw [h.frame _ hlt, h.frame p (by omega)]

/-- The reading is made of the bytes 3 to 9, which stand in FRAME_BUF. -/
theorem SameFrame.readingOf_eq {s t : State} (h : SameFrame s t) (hb : s.build.Legal) :
    readingOf (frameByte t) = readingOf (frameByte s) := by
  obtain ⟨hmin, -⟩ := hb
  exact readingOf_congr fun j _ hj => h.frame j (by omega)

/-! ## What the frame buffer says about the view (R94, R97, R98) -/

/-- A byte of FRAME_BUF packed from a place of PREAMBLE is the byte of PREAMBLE. -/
theorem byte_of_preambleAt {s : State} {k j : Nat} {x y : Byte} (h : PreambleAt s k) (hj : j < 3)
    (hx : ∀ b < 8, x.getMsbD b = view s (k + 8 * j + b))
    (hy : ∀ b < 8, y.getMsbD b = preamble.getMsbD (8 * j + b)) : x = y := by
  apply eq_of_getMsbD
  intro b hb
  rw [hx b hb, hy b hb, ← h (8 * j + b) (by omega), Nat.add_assoc]

/-- A frame packed from a place of PREAMBLE starts with the bytes of PREAMBLE (R97). -/
theorem frame_starts_with_preamble {s u : State} {k : Nat} (hb : s.build.Legal)
    (h : PreambleAt s k) (hu : ∀ j b, j < 12 * s.build.repeatCount → b < 8 →
      (frameByte u j).getMsbD b = view s (k + 8 * j + b)) :
    frameByte u 0 = 0xAA ∧ frameByte u 1 = 0xA5 ∧ frameByte u 2 = 0x98 := by
  obtain ⟨hmin, -⟩ := hb
  have hbyte : ∀ j < 3, ∀ b < 8, (frameByte u j).getMsbD b = view s (k + 8 * j + b) :=
    fun j hj b => hu j b (by omega)
  exact ⟨byte_of_preambleAt h (by decide) (hbyte 0 (by decide)) (by decide),
    byte_of_preambleAt h (by decide) (hbyte 1 (by decide)) (by decide),
    byte_of_preambleAt h (by decide) (hbyte 2 (by decide)) (by decide)⟩

/-- The copies of a packed frame agree exactly where the packed view bits do (R98). -/
theorem copiesAgree_iff_view {s u : State} {k : Nat} (hbuild : u.build = s.build)
    (hu : ∀ j b, j < 12 * s.build.repeatCount → b < 8 →
      (frameByte u j).getMsbD b = view s (k + 8 * j + b)) :
    CopiesAgree u ↔ ∀ r p b, 1 ≤ r → r < s.build.repeatCount →
      p < (if s.build.comparePause then 12 else 11) → b < 8 →
      view s (k + 96 * r + 8 * p + b) = view s (k + 8 * p + b) := by
  have hbits : ∀ r p b, 12 * r + p < 12 * s.build.repeatCount → b < 8 →
      (frameByte u (12 * r + p)).getMsbD b = view s (k + 96 * r + 8 * p + b) := by
    intro r p b hlt hb
    rw [hu _ b hlt hb]
    congr 1
    omega
  unfold CopiesAgree
  rw [hbuild]
  constructor
  · intro h r p b h1 hr hp hb
    have hlt := compared_lt hr hp
    rw [← hbits r p b hlt hb, h r p h1 hr hp, hu p b (by omega) hb]
  · intro h r p h1 hr hp
    have hlt := compared_lt hr hp
    apply eq_of_getMsbD
    intro b hb
    rw [hbits r p b hlt hb, hu p b (by omega) hb, h r p b h1 hr hp hb]

end Sys2Proof.Machine
end

section
/-! PROOFS. What every command can do, outcome by outcome, and DECODE as the pipeline of the four
stages (40_command_sequencer.md, R81). -/

namespace Sys2Proof.Machine

/-! ## The states the stages reach -/

/-- LOCATE has found its match at `k` (R90). -/
def State.located (s : State) (k : Nat) : State :=
  { s with
    found := true, matchOffset := BitVec.ofNat 16 k, extracted := false, valid := false,
    reading := false, results := Results.zero }

/-- EXTRACT has packed the view bits from `k` on (R95). -/
def State.framed (s : State) (k : Nat) : State :=
  { s with
    extracted := true, valid := false, reading := false, results := Results.zero,
    mem := s.mem.writeBytes frameBase (packed s k) }

/-- VALIDATE has found the copies to agree (R100). -/
def State.validated (s : State) : State :=
  { s with valid := true, reading := false, results := Results.zero }

/-- FIELDS has written the reading (R112). -/
def State.withReading (s : State) : State :=
  { s with results := readingOf (frameByte s), reading := true }

/-- DECODE has found its match at `k` and packed the view bits from there on (R81). -/
def State.decoded (s : State) (k : Nat) : State :=
  { s with
    found := true, matchOffset := BitVec.ofNat 16 k, extracted := true, valid := false,
    reading := false, results := Results.zero,
    mem := s.mem.writeBytes frameBase (packed s k) }

/-- DECODE has succeeded with its match at `k` (R81). -/
def State.decodedReading (s : State) (k : Nat) : State :=
  { s.decoded k with
    valid := true, reading := true, results := readingOf (frameByte (s.decoded k)) }

theorem located_sameCapture (s : State) (k : Nat) : SameCapture s (s.located k) :=
  .of_mem rfl rfl rfl rfl fun _ _ => rfl

theorem located_framed {s : State} {k : Nat}
    (he : k + 96 * s.build.repeatCount ≤ s.capLen.toNat) :
    (s.located k).framed k = s.decoded k := by
  rw [State.framed, (located_sameCapture s k).packed_eq he]
  rfl

theorem framed_getMsbD (s : State) (k : Nat) {j b : Nat} (hj : j < 12 * s.build.repeatCount)
    (hb : b < 8) : (frameByte (s.framed k) j).getMsbD b = view s (k + 8 * j + b) :=
  frameByte_packed s _ k j b hj hb rfl

theorem framed_read_other (s : State) (k a : Nat)
    (h : a < frameBase ∨ frameBase + 12 * s.build.repeatCount ≤ a) :
    (s.framed k).mem.read a = s.mem.read a :=
  read_writeFrame_packed_other s s k a h

theorem decoded_getMsbD (s : State) (k j b : Nat) (hj : j < 12 * s.build.repeatCount)
    (hb : b < 8) : (frameByte (s.decoded k) j).getMsbD b = view s (k + 8 * j + b) :=
  frameByte_packed s _ k j b hj hb rfl

theorem decoded_read_other (s : State) (k a : Nat)
    (h : a < frameBase ∨ frameBase + 12 * s.build.repeatCount ≤ a) :
    (s.decoded k).mem.read a = s.mem.read a :=
  read_writeFrame_packed_other s s k a h

/-! ## DECODE by outcome (R81) -/

theorem exec_decode_notFound {s : State} (h : NoMatch s) :
    exec .decode s = .next (s.invalidateFound.recordReject .preambleNotFound) := by
  have hsame : SameCapture s s.invalidateFound := .of_mem rfl rfl rfl rfl fun _ _ => rfl
  show execDecode s = _
  rw [execDecode, andThen_running, locateBody_notFound (hsame.noMatch_iff.2 h)]
  rfl

/-- With a match at `k` the rest of the pipeline runs on the located state. -/
theorem exec_decode_found {s : State} {k : Nat} (h : FirstMatch s k) :
    exec .decode s =
      (((extractBody (s.located k)).andThen validateBody).andThen fieldsBody).finish := by
  have hsame : SameCapture s s.invalidateFound := .of_mem rfl rfl rfl rfl fun _ _ => rfl
  show execDecode s = _
  rw [execDecode, andThen_running, locateBody_found ((hsame.firstMatch_iff k).2 h)]
  rfl

theorem exec_decode_short {s : State} {k : Nat} (h : FirstMatch s k)
    (hshort : s.capLen.toNat < k + 96 * s.build.repeatCount) :
    exec .decode s = .next ((s.located k).recordReject .insufficientBits) := by
  have hk : (s.located k).matchOffset.toNat = k := h.toNat_ofNat
  rw [exec_decode_found h, extractBody_insufficient (hk.symm ▸ hshort)]
  rfl

/-- With enough bits the rest of the pipeline runs on the packed frame. -/
theorem exec_decode_enough {s : State} {k : Nat} (h : FirstMatch s k)
    (henough : k + 96 * s.build.repeatCount ≤ s.capLen.toNat) :
    exec .decode s = ((validateBody (s.decoded k)).andThen fieldsBody).finish := by
  have hk : (s.located k).matchOffset.toNat = k := h.toNat_ofNat
  rw [exec_decode_found h, extractBody_enough (hk.symm ▸ henough), hk, ← located_framed henough]
  rfl

theorem exec_decode_mismatch {s : State} {k : Nat} (h : FirstMatch s k)
    (henough : k + 96 * s.build.repeatCount ≤ s.capLen.toNat)
    (hmismatch : ¬ CopiesAgree (s.decoded k)) :
    exec .decode s = .next ((s.decoded k).recordReject .repeatMismatch) := by
  rw [exec_decode_enough h henough, validateBody_mismatch hmismatch]
  rfl

theorem exec_decode_agree {s : State} {k : Nat} (h : FirstMatch s k)
    (henough : k + 96 * s.build.repeatCount ≤ s.capLen.toNat)
    (hagree : CopiesAgree (s.decoded k)) :
    exec .decode s = .next (s.decodedReading k).recordComplete := by
  rw [exec_decode_enough h henough, validateBody_agree hagree]
  rfl

/-! ## What every command can do -/

/-- Everything a command can do to the block: one constructor for every outcome. -/
inductive CommandEffect (s : State) : Instr → State → Prop where
  | nop : CommandEffect s .nop s
  | locate_found (k : Nat) (hk : FirstMatch s k) :
      CommandEffect s .locate (s.located k).recordComplete
  | locate_notFound (hn : NoMatch s) :
      CommandEffect s .locate (s.invalidateFound.recordReject .preambleNotFound)
  | extract_enough (hfound : s.found = true)
      (he : s.matchOffset.toNat + 96 * s.build.repeatCount ≤ s.capLen.toNat) :
      CommandEffect s .extract (s.framed s.matchOffset.toNat).recordComplete
  | extract_short (hfound : s.found = true)
      (hs : s.capLen.toNat < s.matchOffset.toNat + 96 * s.build.repeatCount) :
      CommandEffect s .extract (s.invalidateExtracted.recordReject .insufficientBits)
  | validate_agree (hextracted : s.extracted = true) (ha : CopiesAgree s) :
      CommandEffect s .validate s.validated.recordComplete
  | validate_mismatch (hextracted : s.extracted = true) (hm : ¬ CopiesAgree s) :
      CommandEffect s .validate (s.invalidateValid.recordReject .repeatMismatch)
  | fields (hvalid : s.valid = true) : CommandEffect s .fields s.withReading.recordComplete
  | clear : CommandEffect s .clear s.invalidateFound.clearFrame.recordComplete
  | decode_notFound (hn : NoMatch s) :
      CommandEffect s .decode (s.invalidateFound.recordReject .preambleNotFound)
  | decode_short (k : Nat) (hk : FirstMatch s k)
      (hs : s.capLen.toNat < k + 96 * s.build.repeatCount) :
      CommandEffect s .decode ((s.located k).recordReject .insufficientBits)
  | decode_mismatch (k : Nat) (hk : FirstMatch s k)
      (he : k + 96 * s.build.repeatCount ≤ s.capLen.toNat) (hm : ¬ CopiesAgree (s.decoded k)) :
      CommandEffect s .decode ((s.decoded k).recordReject .repeatMismatch)
  | decode_agree (k : Nat) (hk : FirstMatch s k)
      (he : k + 96 * s.build.repeatCount ≤ s.capLen.toNat) (ha : CopiesAgree (s.decoded k)) :
      CommandEffect s .decode (s.decodedReading k).recordComplete
  /-- A stage whose flag is clear (R80). -/
  | precondition (i : Instr) (hi : (i = .extract ∧ s.found = false) ∨
        (i = .validate ∧ s.extracted = false) ∨ (i = .fields ∧ s.valid = false)) :
      CommandEffect s i (s.recordReject .precondition)
  /-- An illegal word (R84). -/
  | illegal (i : Instr) (hi : i = .illegal7 ∨ ∃ m o, i = .illegalMbz m o) :
      CommandEffect s i (s.recordReject .illegalCommand)

/-- A command answers the next state of one of its outcomes. -/
theorem exec_answers (i : Instr) (s : State) : ∃ t, exec i s = .next t ∧ CommandEffect s i t := by
  cases i with
  | nop => exact ⟨_, rfl, .nop⟩
  | locate =>
    rcases firstMatch_or_noMatch s with ⟨k, hk⟩ | hn
    · exact ⟨_, exec_locate_found hk, .locate_found k hk⟩
    · exact ⟨_, exec_locate_notFound hn, .locate_notFound hn⟩
  | extract =>
    cases hfound : s.found with
    | false => exact ⟨_, need_finish_clear hfound s _, .precondition _ (.inl ⟨rfl, hfound⟩)⟩
    | true =>
      rcases Nat.lt_or_ge s.capLen.toNat (s.matchOffset.toNat + 96 * s.build.repeatCount) with
        hs | he
      · exact ⟨_, exec_extract_insufficient hfound hs, .extract_short hfound hs⟩
      · exact ⟨_, exec_extract_enough hfound he, .extract_enough hfound he⟩
  | validate =>
    cases hextracted : s.extracted with
    | false =>
      exact ⟨_, need_finish_clear hextracted s _, .precondition _ (.inr (.inl ⟨rfl, hextracted⟩))⟩
    | true =>
      by_cases ha : CopiesAgree s
      · exact ⟨_, exec_validate_agree hextracted ha, .validate_agree hextracted ha⟩
      · exact ⟨_, exec_validate_mismatch hextracted ha, .validate_mismatch hextracted ha⟩
  | fields =>
    cases hvalid : s.valid with
    | false =>
      exact ⟨_, exec_fields_invalid hvalid, .precondition _ (.inr (.inr ⟨rfl, hvalid⟩))⟩
    | true => exact ⟨_, exec_fields_valid hvalid, .fields hvalid⟩
  | clear => exact ⟨_, exec_clear s, .clear⟩
  | decode =>
    rcases firstMatch_or_noMatch s with ⟨k, hk⟩ | hn
    · rcases Nat.lt_or_ge s.capLen.toNat (k + 96 * s.build.repeatCount) with hs | he
      · exact ⟨_, exec_decode_short hk hs, .decode_short k hk hs⟩
      · by_cases ha : CopiesAgree (s.decoded k)
        · exact ⟨_, exec_decode_agree hk he ha, .decode_agree k hk he ha⟩
        · exact ⟨_, exec_decode_mismatch hk he ha, .decode_mismatch k hk he ha⟩
    · exact ⟨_, exec_decode_notFound hn, .decode_notFound hn⟩
  | illegal7 => exact ⟨_, exec_illegal7 s, .illegal _ (.inl rfl)⟩
  | illegalMbz m o => exact ⟨_, exec_illegalMbz m o s, .illegal _ (.inr ⟨m, o, rfl⟩)⟩

/-- The inversion lemma of `exec`. -/
theorem exec_effect {i : Instr} {s t : State} (h : exec i s = .next t) : CommandEffect s i t := by
  obtain ⟨u, hu, heff⟩ := exec_answers i s
  obtain rfl : u = t := by simpa [hu] using h
  exact heff

/-- What no command writes, whatever the build is: every register but those of the result side, and
what is not state of the block (R65). -/
structure RegistersKept (s t : State) : Prop where
  build : t.build = s.build
  invert : t.invert = s.invert
  capLen : t.capLen = s.capLen
  startOffset : t.startOffset = s.startOffset
  errBusyWrite : t.errBusyWrite = s.errBusyWrite
  inputs : t.inputs = s.inputs
  turns : t.turns = s.turns
  resp : t.resp = s.resp
  freeReads : t.freeReads = s.freeReads

theorem CommandEffect.registersKept {i : Instr} {s t : State} (h : CommandEffect s i t) :
    RegistersKept s t := by
  cases h <;> exact ⟨rfl, rfl, rfl, rfl, rfl, rfl, rfl, rfl, rfl⟩

/-! ## The completion record (R78, R84, R115) -/

/-- Settles O5: the illegal commands are their rejection. -/
theorem illegalCommandsComplete : Obligations.IllegalCommandsComplete :=
  fun m o s => ⟨exec_illegal7 s, exec_illegalMbz m o s⟩

/-- Settles O44: of the outcomes, those of code 1 to 3 come after an invalidation of the reading,
and those of code 4 and 5 are the record alone. -/
theorem completionRecord : Obligations.CompletionRecord := by
  intro i s hi
  obtain ⟨t, hexec, heff⟩ := exec_answers i s
  refine ⟨t, hexec, ?_⟩
  cases heff with
  | nop => contradiction
  | locate_found | extract_enough | validate_agree | fields | clear | decode_agree =>
    exact ⟨rfl, rfl, rfl, by simp, by simp, by simp⟩
  | locate_notFound | extract_short | validate_mismatch | decode_notFound | decode_short
  | decode_mismatch => exact ⟨rfl, rfl, rfl, by simp, fun _ => ⟨rfl, rfl⟩, by simp⟩
  | precondition | illegal => exact ⟨rfl, rfl, rfl, by simp, by simp, fun _ => rfl⟩

/-! ## DECODE is the four stages (R3, R81) -/

/-- A stage that completes hands its state to the next one. -/
theorem runStages_of_complete {i : Instr} {s t : State} (h : exec i s = .next t.recordComplete)
    (is : List Instr) : runStages (i :: is) s = runStages is t.recordComplete := by
  simp only [runStages, h, State.recordComplete_rejected, Bool.false_eq_true, if_false]

/-- A stage that rejects is the last one. -/
theorem runStages_of_reject {i : Instr} {c : Reason} {s t : State}
    (h : exec i s = .next (t.recordReject c)) (is : List Instr) :
    runStages (i :: is) s = .next (t.recordReject c) := by
  simp only [runStages, h, State.recordReject_rejected, if_true]

/-- EXTRACT after a LOCATE that has found its match reaches the frame of DECODE. -/
theorem exec_extract_located {s : State} {k : Nat} (h : FirstMatch s k)
    (he : k + 96 * s.build.repeatCount ≤ s.capLen.toNat) :
    exec .extract (s.located k).recordComplete = .next (s.decoded k).recordComplete := by
  have hk : (s.located k).recordComplete.matchOffset.toNat = k := h.toNat_ofNat
  rw [exec_extract_enough (s := (s.located k).recordComplete) rfl (hk.symm ▸ he), hk,
    ← located_framed he]
  rfl

/-- The stages after an EXTRACT that has reached the frame of DECODE. -/
theorem runStages_decoded {s : State} {k : Nat} (h : FirstMatch s k)
    (he : k + 96 * s.build.repeatCount ≤ s.capLen.toNat) :
    runStages [.validate, .fields] (s.decoded k).recordComplete = exec .decode s := by
  have hframe : SameFrame (s.decoded k) (s.decoded k).recordComplete := .of_mem rfl rfl
  by_cases ha : CopiesAgree (s.decoded k)
  · rw [runStages_of_complete (exec_validate_agree rfl (hframe.copiesAgree_iff.2 ha)),
      exec_decode_agree h he ha]
    exact runStages_of_complete (exec_fields_valid rfl) []
  · rw [runStages_of_reject (exec_validate_mismatch rfl (mt hframe.copiesAgree_iff.1 ha)),
      exec_decode_mismatch h he ha]
    rfl

/-- The stages after a LOCATE that has found its match. -/
theorem runStages_located {s : State} {k : Nat} (h : FirstMatch s k) :
    runStages [.extract, .validate, .fields] (s.located k).recordComplete = exec .decode s := by
  have hk : (s.located k).recordComplete.matchOffset.toNat = k := h.toNat_ofNat
  rcases Nat.lt_or_ge s.capLen.toNat (k + 96 * s.build.repeatCount) with hs | he
  · rw [exec_decode_short h hs]
    exact runStages_of_reject (exec_extract_insufficient rfl (hk.symm ▸ hs)) _
  · rw [runStages_of_complete (exec_extract_located h he), runStages_decoded h he]

/-- Settles O40: with no match both end in the rejection of LOCATE; with one, the later stages see
the record of the earlier ones and overwrite it. -/
theorem decodeIsTheFourStages : Obligations.DecodeIsTheFourStages := by
  intro s
  refine ⟨exec_next .decode s, ?_⟩
  rcases firstMatch_or_noMatch s with ⟨k, hk⟩ | hn
  · have hlocate : exec .locate s = .next (s.located k).recordComplete := exec_locate_found hk
    rw [runStages_of_complete hlocate, runStages_located hk]
  · rw [runStages_of_reject (exec_locate_notFound hn), exec_decode_notFound hn]

/-! ## The end states of DECODE (R81) -/

/-- The copies of the packed frame agree exactly where the view bits they come from do. -/
theorem decoded_copiesAgree_iff (s : State) (k : Nat) :
    CopiesAgree (s.decoded k) ↔ ∀ r p b, 1 ≤ r → r < s.build.repeatCount →
      p < (if s.build.comparePause then 12 else 11) → b < 8 →
      view s (k + 96 * r + 8 * p + b) = view s (k + 8 * p + b) :=
  copiesAgree_iff_view rfl (decoded_getMsbD s k)

/-- Settles O39: the four outcomes of DECODE, the comparison of the copies read off the view. -/
theorem decodeEndStates : Obligations.DecodeEndStates := by
  intro s
  refine ⟨exec_decode_notFound, fun k hk => ⟨exec_decode_short hk, fun he => ?_⟩⟩
  by_cases ha : CopiesAgree (s.decoded k)
  · refine ⟨_, exec_decode_agree hk he ha, decoded_getMsbD s k, decoded_read_other s k,
      fun _ => rfl, fun r p b h1 hr hp hb hne => ?_⟩
    exact absurd ((decoded_copiesAgree_iff s k).1 ha r p b h1 hr hp hb) hne
  · refine ⟨_, exec_decode_mismatch hk he ha, decoded_getMsbD s k, decoded_read_other s k,
      fun hview => ?_, fun _ _ _ _ _ _ _ _ => rfl⟩
    exact absurd ((decoded_copiesAgree_iff s k).2 hview) ha

/-! ## A second DECODE (R81) -/

/-- Packing the frame a second time changes nothing. -/
theorem decoded_of_decoded {s t : State} {k : Nat} (hwf : s.mem.wf) (hregs : RegistersKept s t)
    (hcapture : SameCapture s t) (he : k + 96 * s.build.repeatCount ≤ s.capLen.toNat)
    (hmem : t.mem = (s.decoded k).mem) :
    t.decoded k = { s.decoded k with
      eng := t.eng, done := t.done, rejected := t.rejected, reason := t.reason } := by
  have htwice : t.mem.writeBytes frameBase (packed t k) = (s.decoded k).mem := by
    rw [hcapture.packed_eq he, hmem]
    exact Memory.writeBytes_twice _ _ hwf
  obtain ⟨hbuild, hinvert, hcapLen, hstart, herr, hinputs, hturns, hresp, hfree⟩ := hregs
  rw [State.decoded, htwice, hbuild, hinvert, hcapLen, hstart, herr, hinputs, hturns, hresp, hfree]
  rfl

/-- So the second frame is the first one. -/
theorem sameFrame_decoded_of_decoded {s t : State} {k : Nat} (hwf : s.mem.wf)
    (hregs : RegistersKept s t) (hcapture : SameCapture s t)
    (he : k + 96 * s.build.repeatCount ≤ s.capLen.toNat) (hmem : t.mem = (s.decoded k).mem) :
    SameFrame (s.decoded k) (t.decoded k) := by
  rw [decoded_of_decoded hwf hregs hcapture he hmem]
  exact .of_mem rfl rfl

/-- Settles O41: the first DECODE leaves the capture alone, so the second one takes the same way;
and packing the same bytes a second time leaves memory as it is. -/
theorem secondDecodeChangesNothing : Obligations.SecondDecodeChangesNothing := by
  intro s t hb hwf h
  have hcapture : SameCapture s t := (commandsKeepTheInputs .decode s t hb h).1.sameCapture
  have hregs : RegistersKept s t := (exec_effect h).registersKept
  cases exec_effect h with
  | decode_notFound hn =>
    rw [exec_decode_notFound (hcapture.noMatch_iff.2 hn)]
    rfl
  | decode_short k hk hs =>
    rw [exec_decode_short ((hcapture.firstMatch_iff k).2 hk) hs]
    rfl
  | decode_mismatch k hk he hm =>
    have hframe := sameFrame_decoded_of_decoded hwf hregs hcapture he rfl
    rw [exec_decode_mismatch ((hcapture.firstMatch_iff k).2 hk) he
      (mt hframe.copiesAgree_iff.1 hm), decoded_of_decoded hwf hregs hcapture he rfl]
    rfl
  | decode_agree k hk he ha =>
    have hframe := sameFrame_decoded_of_decoded hwf hregs hcapture he rfl
    rw [exec_decode_agree ((hcapture.firstMatch_iff k).2 hk) he (hframe.copiesAgree_iff.2 ha),
      State.decodedReading, decoded_of_decoded hwf hregs hcapture he rfl]
    rfl
  | precondition _ hi => simp at hi
  | illegal _ hi => simp at hi

end Sys2Proof.Machine
end

section
/-! PROOFS. Facts about single stages: where a match can lie (41_preamble_detector.md, R91), how an
extracted frame starts (R97), the pause byte (R98) and the direction label (R110). -/

namespace Sys2Proof.Machine

/-! ## Where a match can lie (R91) -/

/-- A short capture or a late start leaves LOCATE no offset to try. -/
theorem noMatch_of_no_room {s : State}
    (h : s.capLen.toNat < 24 ∨ s.capLen.toNat - 24 < s.startOffset.toNat) : NoMatch s := by
  intro k hstart hfits
  omega

/-- Settles O27: a match found is a first match, whose bounds are those of the search. -/
theorem locateBounds : Obligations.LocateBounds := by
  refine fun s => ⟨fun hroom => ⟨_, exec_locate_notFound (noMatch_of_no_room hroom), rfl, rfl⟩,
    fun t h hrejected => ?_⟩
  cases exec_effect h with
  | locate_found k hk =>
    have hoffset : (s.located k).recordComplete.matchOffset.toNat = k := hk.toNat_ofNat
    rw [hoffset]
    exact ⟨rfl, hk.start_le, hk.fits, hk.here⟩
  | locate_notFound => simp at hrejected
  | precondition => simp at hrejected
  | illegal => simp at hrejected

/-- PREAMBLE has no self-overlap: every shift of it by less than its length shows another bit. -/
theorem preamble_no_overlap :
    ∀ d < 24, 0 < d → ∃ i < 24 - d, preamble.getMsbD (d + i) ≠ preamble.getMsbD i := by decide

/-- Settles O28: two places closer than 24 bits would read one bit as two different bits of
PREAMBLE. -/
theorem preambleDoesNotOverlap : Obligations.PreambleDoesNotOverlap := by
  intro s j k hj hk hlt
  by_contra hclose
  obtain ⟨i, hi, hne⟩ := preamble_no_overlap (k - j) (by omega) (by omega)
  have hfirst : view s (k + i) = preamble.getMsbD (k - j + i) := by
    rw [← hj (k - j + i) (by omega)]
    congr 1
    omega
  exact hne (hfirst.symm.trans (hk i (by omega)))

/-! ## How an extracted frame starts (R97) -/

/-- Settles O31: LOCATE leaves the capture alone and records the place of PREAMBLE, from which
EXTRACT packs. -/
theorem extractedFrameStartsWithThePreamble :
    Obligations.ExtractedFrameStartsWithThePreamble := by
  intro s t u hb hlocate hlocated hextract hextracted
  cases exec_effect hlocate with
  | locate_notFound => simp at hlocated
  | precondition => simp at hlocated
  | illegal => simp at hlocated
  | locate_found k hk =>
    have hoffset : (s.located k).recordComplete.matchOffset.toNat = k := hk.toNat_ofNat
    cases exec_effect hextract with
    | extract_short => simp at hextracted
    | precondition => simp at hextracted
    | illegal => simp at hextracted
    | extract_enough =>
      rw [hoffset]
      exact frame_starts_with_preamble (s := (s.located k).recordComplete) hb hk.here
        fun _ _ => framed_getMsbD _ k

/-! ## The pause byte (R98) -/

/-- With COMPARE_PAUSE = 0 the verdict does not look at byte 11 of any copy. -/
theorem copiesAgree_iff_of_mem {s : State} {m : Memory} (hpause : s.build.comparePause = false)
    (hm : ∀ r p, r < s.build.repeatCount → p < 11 →
      frameByte { s with mem := m } (12 * r + p) = frameByte s (12 * r + p)) :
    CopiesAgree { s with mem := m } ↔ CopiesAgree s := by
  unfold CopiesAgree
  simp only [hpause, Bool.false_eq_true, if_false]
  refine forall_congr' fun r => forall_congr' fun p => forall_congr' fun h1 =>
    forall_congr' fun hr => forall_congr' fun hp => ?_
  have hcopy0 : frameByte { s with mem := m } p = frameByte s p := by
    simpa using hm 0 p (by omega) hp
  rw [hm r p hr hp, hcopy0]

/-- Settles O34: VALIDATE looks at memory only for its verdict, and writes none. -/
theorem pauseByteDoesNotCount : Obligations.PauseByteDoesNotCount := by
  intro s m hpause hm
  have hverdict := copiesAgree_iff_of_mem hpause hm
  rcases Bool.eq_false_or_eq_true s.extracted with hset | hclear
  · by_cases ha : CopiesAgree s
    · exact ⟨_, exec_validate_agree hset ha,
        exec_validate_agree (s := { s with mem := m }) hset (hverdict.2 ha)⟩
    · exact ⟨_, exec_validate_mismatch hset ha,
        exec_validate_mismatch (s := { s with mem := m }) hset (mt hverdict.1 ha)⟩
  · exact ⟨_, need_finish_clear hclear s validateBody,
      need_finish_clear hclear { s with mem := m } validateBody⟩

/-! ## The direction label (R110) -/

/-- WIND_LABEL is the entry of the direction table at the index (R41, R110). -/
theorem directionLabel_toNat (d : BitVec 4) :
    some ((directionLabel d).setWidth 32).toNat =
      [0x0020204E, 0x004E4E45, 0x00204E45, 0x00454E45, 0x00202045, 0x00455345, 0x00205345,
        0x00535345, 0x00202053, 0x00535357, 0x00205357, 0x00575357, 0x00202057, 0x00574E57,
        0x00204E57, 0x004E4E57][d.toNat]? := by
  revert d
  decide

/-- Settles O36: the index of the table is the low half of byte 9. -/
theorem fieldsWritesTheLabel : Obligations.FieldsWritesTheLabel := by
  intro s hvalid
  refine ⟨_, exec_fields_valid hvalid, rfl, ?_⟩
  rw [← dirIndex_toNat]
  exact directionLabel_toNat (dirIndex (frameByte s))

end Sys2Proof.Machine
end

section
/-! PROOFS. What a command's outcome depends on: states alike in what the stages read come out of
every command alike (R57, R66, R78, R119). -/

namespace Sys2Proof.Machine

/-! ## Pairs of runs of one command -/

/-- Two runs of a piece of pseudocode have gone the same way, to states that `R` relates. -/
inductive Progress.Related (R : State → State → Prop) : Progress → Progress → Prop where
  | running {s u : State} (h : R s u) : Related R (.running s) (.running u)
  | rejected {s u : State} (c : Reason) (h : R s u) : Related R (.rejected c s) (.rejected c u)

/-- States that `R` relates go the same way through each part of a command, to states that `R`
relates. -/
structure StagesRespect (R : State → State → Prop) : Prop where
  found : ∀ {s u}, R s u → u.found = s.found
  extracted : ∀ {s u}, R s u → u.extracted = s.extracted
  valid : ∀ {s u}, R s u → u.valid = s.valid
  invalidateFound : ∀ {s u}, R s u → R s.invalidateFound u.invalidateFound
  locate : ∀ {s u}, R s u → Progress.Related R (locateBody s) (locateBody u)
  extract : ∀ {s u}, R s u → Progress.Related R (extractBody s) (extractBody u)
  validate : ∀ {s u}, R s u → Progress.Related R (validateBody s) (validateBody u)
  fields : ∀ {s u}, R s u → Progress.Related R (fieldsBody s) (fieldsBody u)
  clearFrame : ∀ {s u}, R s u → R s.clearFrame u.clearFrame
  complete : ∀ {s u}, R s u → R s.recordComplete u.recordComplete
  reject : ∀ {s u} (c : Reason), R s u → R (s.recordReject c) (u.recordReject c)

section Related

variable {R : State → State → Prop}

theorem Progress.Related.andThen {p q : Progress} {f : State → Progress}
    (hp : Progress.Related R p q) (hf : ∀ {s u}, R s u → Progress.Related R (f s) (f u)) :
    Progress.Related R (p.andThen f) (q.andThen f) := by
  cases hp with
  | running h => exact hf h
  | rejected c h => exact .rejected c h

theorem need_related {s u : State} {flag flag' : Bool} (hflag : flag' = flag) (h : R s u) :
    Progress.Related R (need flag s) (need flag' u) := by
  subst hflag
  cases flag' with
  | false => exact .rejected _ h
  | true => exact .running h

theorem Progress.Related.finish (hR : StagesRespect R) {p q : Progress}
    (h : Progress.Related R p q) :
    ∃ t v, p.finish = .next t ∧ q.finish = .next v ∧ R t v := by
  cases h with
  | running h => exact ⟨_, _, rfl, rfl, hR.complete h⟩
  | rejected c h => exact ⟨_, _, rfl, rfl, hR.reject c h⟩

/-- Related states come out of every command related. -/
theorem exec_related (hR : StagesRespect R) (i : Instr) {s u : State} (h : R s u) :
    ∃ t v, exec i s = .next t ∧ exec i u = .next v ∧ R t v := by
  cases i with
  | nop => exact ⟨s, u, rfl, rfl, h⟩
  | decode =>
    have hstart := Progress.Related.running (hR.invalidateFound h)
    exact Progress.Related.finish hR
      ((((hstart.andThen hR.locate).andThen hR.extract).andThen hR.validate).andThen hR.fields)
  | locate => exact (hR.locate h).finish hR
  | extract => exact ((need_related (hR.found h) h).andThen hR.extract).finish hR
  | validate => exact ((need_related (hR.extracted h) h).andThen hR.validate).finish hR
  | fields => exact ((need_related (hR.valid h) h).andThen hR.fields).finish hR
  | clear => exact (Progress.Related.running (hR.clearFrame (hR.invalidateFound h))).finish hR
  | illegal7 => exact (Progress.Related.rejected .illegalCommand h).finish hR
  | illegalMbz _ _ => exact (Progress.Related.rejected .illegalCommand h).finish hR

end Related

/-! ## States with the same view below CAP_LEN (R57, R66) -/

/-- The two states show the same outcome and have the same view below CAP_LEN, whatever the capture
and CTRL.INVERT are. -/
structure SameView (s u : State) : Prop where
  legal : s.build.Legal
  outcome : SameOutcome s u
  capture : SameCapture s u

theorem SameView.frame {s u : State} (h : SameView s u) : SameFrame s u :=
  ⟨h.capture.build, h.outcome.frame⟩

/-- What keeps the inputs of both states keeps their views alike. -/
theorem SameCapture.of_inputsKept {s u s' u' : State} (h : SameCapture s u) (hs : InputsKept s s')
    (hu : InputsKept u u') : SameCapture s' u' where
  build := hu.build.trans (h.build.trans hs.build.symm)
  capLen := hu.capLen.trans (h.capLen.trans hs.capLen.symm)
  startOffset := hu.startOffset.trans (h.startOffset.trans hs.startOffset.symm)
  view j hj := by
    rw [hs.capLen] at hj
    rw [hu.sameCapture.view j (h.capLen ▸ hj), h.view j hj, hs.sameCapture.view j hj]

theorem sameView_locate {s u : State} (h : SameView s u) :
    Progress.Related SameView (locateBody s) (locateBody u) := by
  obtain ⟨hb, ho, hc⟩ := h
  rcases firstMatch_or_noMatch s with ⟨k, hk⟩ | hn
  · rw [locateBody_found hk, locateBody_found ((hc.firstMatch_iff k).2 hk)]
    exact .running ⟨hb,
      ⟨ho.eng, ho.done, ho.rejected, ho.reason, rfl, rfl, rfl, rfl, rfl, rfl, ho.frame⟩,
      ⟨hc.build, hc.capLen, hc.startOffset, hc.view⟩⟩
  · rw [locateBody_notFound hn, locateBody_notFound (hc.noMatch_iff.2 hn)]
    exact .rejected _ ⟨hb,
      ⟨ho.eng, ho.done, ho.rejected, ho.reason, rfl, rfl, rfl, rfl, rfl, rfl, ho.frame⟩,
      ⟨hc.build, hc.capLen, hc.startOffset, hc.view⟩⟩

/-- Writing the same bytes to both frame buffers makes them alike. -/
theorem frameByte_writeFrame_eq (s u : State) (bs : List Byte) {j : Nat} (hj : j < bs.length) :
    frameByte (u.writeFrame bs) j = frameByte (s.writeFrame bs) j := by
  rw [frameByte_writeFrame u bs j hj, frameByte_writeFrame s bs j hj]

theorem sameView_extract {s u : State} (h : SameView s u) :
    Progress.Related SameView (extractBody s) (extractBody u) := by
  obtain ⟨hb, ho, hc⟩ := h
  have hkeep := hc.of_inputsKept (keepsInputs_extractBody s hb)
    (keepsInputs_extractBody u (hc.build ▸ hb))
  have hbound : u.matchOffset.toNat + 96 * u.build.repeatCount =
      s.matchOffset.toNat + 96 * s.build.repeatCount := by rw [ho.matchOffset, hc.build]
  rcases Nat.lt_or_ge s.capLen.toNat (s.matchOffset.toNat + 96 * s.build.repeatCount) with hs | he
  · have hu : u.capLen.toNat < u.matchOffset.toNat + 96 * u.build.repeatCount := by
      rwa [hbound, hc.capLen]
    rw [extractBody_insufficient hs, extractBody_insufficient hu] at hkeep ⊢
    exact .rejected _ ⟨hb, ⟨ho.eng, ho.done, ho.rejected, ho.reason, ho.found, rfl, rfl, rfl,
      ho.matchOffset, rfl, ho.frame⟩, hkeep⟩
  · have hu : u.matchOffset.toNat + 96 * u.build.repeatCount ≤ u.capLen.toNat := by
      rwa [hbound, hc.capLen]
    have hpacked : packed u u.matchOffset.toNat = packed s s.matchOffset.toNat := by
      rw [ho.matchOffset, hc.packed_eq he]
    rw [extractBody_enough he, extractBody_enough hu, hpacked] at hkeep ⊢
    exact .running ⟨hb, ⟨ho.eng, ho.done, ho.rejected, ho.reason, ho.found, rfl, rfl, rfl,
      ho.matchOffset, rfl, fun j hj => frameByte_writeFrame_eq _ _ _ (by simpa using hj)⟩, hkeep⟩

theorem sameView_validate {s u : State} (h : SameView s u) :
    Progress.Related SameView (validateBody s) (validateBody u) := by
  have hframe := h.frame
  obtain ⟨hb, ho, hc⟩ := h
  by_cases ha : CopiesAgree s
  · rw [validateBody_agree ha, validateBody_agree (hframe.copiesAgree_iff.2 ha)]
    exact .running ⟨hb, ⟨ho.eng, ho.done, ho.rejected, ho.reason, ho.found, ho.extracted, rfl, rfl,
      ho.matchOffset, rfl, ho.frame⟩, ⟨hc.build, hc.capLen, hc.startOffset, hc.view⟩⟩
  · rw [validateBody_mismatch ha, validateBody_mismatch (mt hframe.copiesAgree_iff.1 ha)]
    exact .rejected _ ⟨hb, ⟨ho.eng, ho.done, ho.rejected, ho.reason, ho.found, ho.extracted, rfl,
      rfl, ho.matchOffset, rfl, ho.frame⟩, ⟨hc.build, hc.capLen, hc.startOffset, hc.view⟩⟩

theorem sameView_fields {s u : State} (h : SameView s u) :
    Progress.Related SameView (fieldsBody s) (fieldsBody u) := by
  have hreading := h.frame.readingOf_eq h.legal
  obtain ⟨hb, ho, hc⟩ := h
  exact .running ⟨hb, ⟨ho.eng, ho.done, ho.rejected, ho.reason, ho.found, ho.extracted, ho.valid,
    rfl, ho.matchOffset, hreading, ho.frame⟩, ⟨hc.build, hc.capLen, hc.startOffset, hc.view⟩⟩

theorem sameView_clearFrame {s u : State} (h : SameView s u) :
    SameView s.clearFrame u.clearFrame := by
  obtain ⟨hb, ho, hc⟩ := h
  have hkept : ∀ {v : State}, v.build.Legal → InputsKept v v.clearFrame := fun hv =>
    .of_engineFields hv rfl (read_clearFrame_other _)
  refine ⟨hb, ⟨ho.eng, ho.done, ho.rejected, ho.reason, ho.found, ho.extracted, ho.valid,
    ho.reading, ho.matchOffset, ho.results, fun j hj => ?_⟩,
    hc.of_inputsKept (hkept hb) (hkept (hc.build ▸ hb))⟩
  rw [frameByte_clearFrame s j hj, frameByte_clearFrame u j (hc.build ▸ hj)]

theorem sameView_stagesRespect : StagesRespect SameView where
  found h := h.outcome.found
  extracted h := h.outcome.extracted
  valid h := h.outcome.valid
  invalidateFound := fun ⟨hb, ho, hc⟩ =>
    ⟨hb, ⟨ho.eng, ho.done, ho.rejected, ho.reason, rfl, rfl, rfl, rfl, rfl, rfl, ho.frame⟩,
      ⟨hc.build, hc.capLen, hc.startOffset, hc.view⟩⟩
  locate := sameView_locate
  extract := sameView_extract
  validate := sameView_validate
  fields := sameView_fields
  clearFrame := sameView_clearFrame
  complete := fun ⟨hb, ho, hc⟩ =>
    ⟨hb, ⟨rfl, rfl, rfl, rfl, ho.found, ho.extracted, ho.valid, ho.reading, ho.matchOffset,
      ho.results, ho.frame⟩, ⟨hc.build, hc.capLen, hc.startOffset, hc.view⟩⟩
  reject := fun _ ⟨hb, ho, hc⟩ =>
    ⟨hb, ⟨rfl, rfl, rfl, rfl, ho.found, ho.extracted, ho.valid, ho.reading, ho.matchOffset,
      ho.results, ho.frame⟩, ⟨hc.build, hc.capLen, hc.startOffset, hc.view⟩⟩

/-- Settles O43: equal views below CAP_LEN are all that the search and the packing look at. -/
theorem onlyTheViewBelowCapLenMatters : Obligations.OnlyTheViewBelowCapLenMatters := by
  intro i s u hb houtcome hbuild hcapLen hstart hview
  obtain ⟨t, v, ht, hv, h⟩ :=
    exec_related sameView_stagesRespect i ⟨hb, houtcome, hbuild, hcapLen, hstart, hview⟩
  exact ⟨t, v, ht, hv, h.outcome⟩

end Sys2Proof.Machine
end

section
/-! PROOFS. Steps and the schedule: what a step runs (R77, R78), that a command in flight is left
alone (R78, R85), that its outcome does not depend on the schedule (R119), and that it ends
(R88). -/

namespace Sys2Proof.Machine

/-! ## What a step runs (R77, R78, R82) -/

/-- The host's write of 0 to CMD while IDLE runs NOP once the port has answered. -/
theorem step_nop {s : State} {rest : List Stimulus} (he : s.eng = .idle)
    (hi : s.inputs = .bus (.write cmdOffset 0 0b1111) :: rest) :
    step s = exec .nop { s with inputs := rest, resp := some ⟨0, false⟩ } := by
  rw [step_cmd_idle he ⟨hi, .inl he⟩, issue_nop, Action.outcome_run]

/-- Settles O6: the engine's turn is the completion of the pending word, and the word 0 is skipped
at its issue. -/
theorem stepRunsTheDecodedCommand : Obligations.StepRunsTheDecodedCommand :=
  ⟨fun _ _ he h => step_engine he h, fun _ _ he hi => step_nop he hi⟩

/-- `withFetchWord` places every word of 32 bits as it is. -/
theorem withFetchWord_toNat (s : State) (w : Word) :
    s.withFetchWord 32 w.toNat = placeCommand s w := by
  have hword : tableWord 32 w.toNat = some w := by
    simp [tableWord, Nat.mod_eq_of_lt w.isLt]
  rw [State.withFetchWord, hword]

theorem placeCommand_nop (s : State) : placeCommand s 0 =
    { s with eng := .idle, inputs := .bus (.write cmdOffset 0 0b1111) :: s.inputs } := by
  simp only [placeCommand, decode_zero]

theorem placeCommand_other (s : State) {w : Word} (h : w ≠ 0) :
    placeCommand s w = { s with eng := .busy w, turns := .engine :: s.turns } := by
  have hnop : decode w ≠ .nop := mt (decode_eq_nop_iff w).1 h
  unfold placeCommand
  split
  · contradiction
  · rfl

/-- Settles O7: every word but 0 is placed as the pending one with the engine's turn next, and 0 as
the host's write. -/
theorem placedWordRunsNext : Obligations.PlacedWordRunsNext := by
  intro s w
  rw [withFetchWord_toNat]
  refine ⟨fun hw => ?_, ?_⟩
  · rw [placeCommand_other s hw]
    exact step_engine rfl (.inl (by simp))
  · rintro rfl
    rw [placeCommand_nop]
    exact step_nop rfl rfl

/-- Settles O9: every step and every command answers a next state. -/
theorem nothingStopsTheBlock : Obligations.NothingStopsTheBlock := ⟨step_next, exec_next⟩

/-! ## A command in flight is left alone (R78, R85) -/

/-- The second state differs from the first at most in ERR_BUSY_WRITE, the port's answer and what is
not state of the block: everything a command reads or writes is as before. -/
inductive SameBlock (s : State) : State → Prop where
  | intro (err : Bool) (resp : Option Response) (inputs : List Stimulus) (turns : List Turn)
      (freeReads : Nat) :
      SameBlock s { s with
        errBusyWrite := err, resp := resp, inputs := inputs, turns := turns,
        freeReads := freeReads }

theorem SameBlock.refl (s : State) : SameBlock s s := .intro _ _ _ _ _

theorem SameBlock.trans {s t u : State} (h₁ : SameBlock s t) (h₂ : SameBlock t u) :
    SameBlock s u := by
  cases h₁
  cases h₂
  exact .intro _ _ _ _ _

theorem SameBlock.eng {s t : State} (h : SameBlock s t) : t.eng = s.eng := by
  cases h
  rfl

theorem SameBlock.mem {s t : State} (h : SameBlock s t) : t.mem = s.mem := by
  cases h
  rfl

theorem SameBlock.sameCapture {s t : State} (h : SameBlock s t) : SameCapture s t := by
  cases h
  exact .of_mem rfl rfl rfl rfl fun _ _ => rfl

theorem SameBlock.sameFrame {s t : State} (h : SameBlock s t) : SameFrame s t := by
  cases h
  exact .of_mem rfl rfl

theorem SameBlock.sameOutcome {s t : State} (h : SameBlock s t) : SameOutcome s t := by
  cases h
  exact ⟨rfl, rfl, rfl, rfl, rfl, rfl, rfl, rfl, rfl, rfl, fun _ _ => rfl⟩

/-- Taking a move off `inputs` is no change of the block. -/
theorem afterMove_sameBlock (s : State) (rest : List Stimulus) : SameBlock s (afterMove s rest) :=
  .intro _ _ _ _ _

/-- A transaction while BUSY uses no turn and changes nothing that the command reads or writes. -/
theorem TransactionEffect.sameBlock {s t : State} (h : TransactionEffect s t)
    (hb : s.isBusy = true) : SameBlock s t ∧ t.turns = s.turns := by
  have hidle : s.eng ≠ .idle := by
    rw [Ne, ← isBusy_eq_false_iff, hb]
    decide
  cases h with
  | answered _ _ ht | openRead _ _ ht | dropped _ ht | clearsErr _ _ ht =>
    subst ht
    exact ⟨.intro _ _ _ _ _, rfl⟩
  | issued _ he | inputWrite _ _ _ he | captureWrite _ _ he => exact absurd he hidle

/-- A step from a state with `w` pending ends or aborts the command, or uses up one turn and leaves
alone everything the command reads or writes. The latter is a move of the host, or `w` is NOP, which
is never pending in a run. -/
theorem step_busy {s t : State} {w : Word} (he : s.eng = .busy w) (h : step s = .next t) :
    t.eng = .idle ∨ (SameBlock s t ∧ t.turns = s.turns.tail ∧
      (s.turns.head? = some .host ∨ decode w = .nop)) := by
  have hbusy : s.isBusy = true := (isBusy_eq_true_iff s).2 ⟨w, he⟩
  have hhost : ∀ {st rest}, HostMoves s st rest → s.turns.head? = some .host :=
    fun hm => hm.2.resolve_left (by simp [he])
  cases step_cases h with
  | quiet hidle => simp [he] at hidle
  | bus op rest hm _ heff =>
    obtain ⟨hsame, hturns⟩ := heff.sameBlock hbusy
    rw [afterMove_busy he] at hturns
    exact .inr ⟨(afterMove_sameBlock s rest).trans hsame, hturns, .inl (hhost hm)⟩
  | wait rest hm _ heff =>
    obtain ⟨hsame, hturns⟩ := heff.sameBlock hbusy
    rw [afterMove_busy he] at hturns
    have hmoved : SameBlock s { afterMove s rest with
        inputs := if s.isBusy then .wait :: rest else rest } := .intro _ _ _ _ _
    exact .inr ⟨hmoved.trans hsame, hturns, .inl (hhost hm)⟩
  | reset op rest hm r ht =>
    subst ht
    exact .inl rfl
  | engine v hv hm ht =>
    obtain rfl : w = v := by simpa [he] using hv
    by_cases hnop : decode w = .nop
    · rw [hnop] at ht
      obtain rfl : { s with turns := s.turns.tail } = t := by simpa [exec, execNop] using ht
      exact .inr ⟨.intro _ _ _ _ _, rfl, .inr hnop⟩
    · obtain ⟨u, hu, hidle, -⟩ := exec_idle_done hnop { s with turns := s.turns.tail }
      obtain rfl : u = t := by simpa [hu] using ht
      exact .inl hidle

/-- Settles O49: a step that does not end the command leaves the block alone. -/
theorem busyStepsKeepWhatTheCommandReads : Obligations.BusyStepsKeepWhatTheCommandReads := by
  intro s t w he h
  rcases step_busy he h with hidle | ⟨hsame, -, -⟩
  · exact .inl hidle
  · cases hsame
    exact .inr rfl

/-! ## The schedule does not change the outcome (R119) -/

theorem sameBlock_locate {s u : State} (h : SameBlock s u) :
    Progress.Related SameBlock (locateBody s) (locateBody u) := by
  have hc := h.sameCapture
  rcases firstMatch_or_noMatch s with ⟨k, hk⟩ | hn
  · rw [locateBody_found hk, locateBody_found ((hc.firstMatch_iff k).2 hk)]
    cases h
    exact .running (.intro _ _ _ _ _)
  · rw [locateBody_notFound hn, locateBody_notFound (hc.noMatch_iff.2 hn)]
    cases h
    exact .rejected _ (.intro _ _ _ _ _)

theorem sameBlock_extract {s u : State} (h : SameBlock s u) :
    Progress.Related SameBlock (extractBody s) (extractBody u) := by
  have hc := h.sameCapture
  have hk := h.sameOutcome.matchOffset
  rcases Nat.lt_or_ge s.capLen.toNat (s.matchOffset.toNat + 96 * s.build.repeatCount) with hs | he
  · have hu : u.capLen.toNat < u.matchOffset.toNat + 96 * u.build.repeatCount := by
      rwa [hk, hc.build, hc.capLen]
    rw [extractBody_insufficient hs, extractBody_insufficient hu]
    cases h
    exact .rejected _ (.intro _ _ _ _ _)
  · have hu : u.matchOffset.toNat + 96 * u.build.repeatCount ≤ u.capLen.toNat := by
      rwa [hk, hc.build, hc.capLen]
    rw [extractBody_enough he, extractBody_enough hu, hk, hc.packed_eq he]
    cases h
    exact .running (.intro _ _ _ _ _)

theorem sameBlock_validate {s u : State} (h : SameBlock s u) :
    Progress.Related SameBlock (validateBody s) (validateBody u) := by
  have hf := h.sameFrame
  by_cases ha : CopiesAgree s
  · rw [validateBody_agree ha, validateBody_agree (hf.copiesAgree_iff.2 ha)]
    cases h
    exact .running (.intro _ _ _ _ _)
  · rw [validateBody_mismatch ha, validateBody_mismatch (mt hf.copiesAgree_iff.1 ha)]
    cases h
    exact .rejected _ (.intro _ _ _ _ _)

/-- No part of a command reads ERR_BUSY_WRITE, the port's answer or what is not state of the
block. -/
theorem sameBlock_stagesRespect : StagesRespect SameBlock where
  found h := h.sameOutcome.found
  extracted h := h.sameOutcome.extracted
  valid h := h.sameOutcome.valid
  invalidateFound h := by cases h; exact .intro _ _ _ _ _
  locate := sameBlock_locate
  extract := sameBlock_extract
  validate := sameBlock_validate
  fields h := by cases h; exact .running (.intro _ _ _ _ _)
  clearFrame h := by cases h; exact .intro _ _ _ _ _
  complete h := by cases h; exact .intro _ _ _ _ _
  reject _ h := by cases h; exact .intro _ _ _ _ _

/-- Steps during which the engine stays BUSY leave alone what the command reads or writes. -/
theorem BusyPath.sameBlock {n : Nat} {s u : State} {w : Word} (he : s.eng = .busy w)
    (h : BusyPath n s u) : SameBlock s u := by
  induction n generalizing s with
  | zero =>
    cases h
    exact .refl _
  | succ n ih =>
    obtain ⟨-, t, hstep, hbusy, hpath⟩ := h
    rcases step_busy he hstep with hidle | ⟨hsame, -, -⟩
    · rw [(isBusy_eq_false_iff t).2 hidle] at hbusy
      contradiction
    · exact hsame.trans (ih (hsame.eng.trans he) hpath)

/-- Settles O50: the command completes from a block that the steps before have left alone. -/
theorem scheduleDoesNotChangeTheOutcome : Obligations.ScheduleDoesNotChangeTheOutcome := by
  intro n s u w he hpath
  have hsame := hpath.sameBlock he
  obtain ⟨t, v, ht, hv, h⟩ := exec_related sameBlock_stagesRespect (decode w) hsame
  exact ⟨hsame.eng.trans he, t, v, ht, hv, h.sameOutcome, h.mem⟩

/-! ## A command in flight ends (R88) -/

theorem run_succ {s t : State} (h : step s = .next t) (n : Nat) :
    core.run (n + 1) s = core.run n t := by
  have hcore : core.step s = .next t := h
  simp only [Host.Core.run, hcore]

/-- Settles O51, by induction on the turns: each step that does not end the command uses up one. -/
theorem everyCommandEnds : Obligations.EveryCommandEnds := by
  intro s w he hnop
  induction hlen : s.turns.length generalizing s with
  | zero =>
    obtain ⟨t, ht⟩ := step_next s
    rcases step_busy he ht with hidle | ⟨-, -, hhost | hd⟩
    · exact ⟨1, t, le_rfl, run_succ ht 0, hidle⟩
    · simp [List.length_eq_zero_iff.1 hlen] at hhost
    · contradiction
  | succ m ih =>
    obtain ⟨t, ht⟩ := step_next s
    rcases step_busy he ht with hidle | ⟨hsame, hturns, -⟩
    · exact ⟨1, t, by omega, run_succ ht 0, hidle⟩
    · obtain ⟨n, u, hn, hrun, hidle⟩ := ih t (hsame.eng.trans he) (by simp [hturns, hlen])
      exact ⟨n + 1, u, by omega, (run_succ ht n).trans hrun, hidle⟩

/-! ## Who sets a flag (R26 to R29) -/

/-- The flags of the pipeline in STATUS (R26 to R29). -/
inductive Flag where
  | found
  | extracted
  | valid
  | reading

/-- The flag's bit. -/
def Flag.get : Flag → State → Bool
  | .found => State.found
  | .extracted => State.extracted
  | .valid => State.valid
  | .reading => State.reading

/-- The stage command whose completion sets the flag. -/
def Flag.stage : Flag → Instr
  | .found => .locate
  | .extracted => .extract
  | .valid => .validate
  | .reading => .fields

/-- A command that sets a flag is the flag's own stage or DECODE, and it leaves the engine IDLE. -/
theorem CommandEffect.sets_flag {i : Instr} {s t : State} (h : CommandEffect s i t) (f : Flag)
    (hs : f.get s = false) (ht : f.get t = true) : t.eng = .idle ∧ (i = f.stage ∨ i = .decode) := by
  cases h with
  | decode_notFound | decode_short | decode_mismatch | decode_agree => exact ⟨rfl, .inr rfl⟩
  | locate_found => cases f <;> simp_all [Flag.get, Flag.stage, State.located]
  | extract_enough => cases f <;> simp_all [Flag.get, Flag.stage, State.framed]
  | validate_agree => cases f <;> simp_all [Flag.get, Flag.stage, State.validated]
  | fields => cases f <;> simp_all [Flag.get, Flag.stage, State.withReading]
  | nop => simp [hs] at ht
  | locate_notFound | extract_short | validate_mismatch | clear | precondition | illegal =>
    cases f <;> simp_all [Flag.get]

/-- The flags are read-only to the host, and an input write clears FOUND (R54, R87). -/
theorem TransactionEffect.get_flag {s t : State} (h : TransactionEffect s t) (f : Flag)
    (ht : f.get t = true) : f.get s = true := by
  cases h with
  | captureWrite w data _ he =>
    have hkept : f.get (capWordWrite (s.answer 0 false) w data) = f.get s := by
      unfold capWordWrite
      split <;> cases f <;> rfl
    subst he
    cases f with
    | found => simp [Flag.get] at ht
    | extracted | valid | reading => exact hkept ▸ ht
  | inputWrite _ _ _ _ _ he =>
    subst he
    cases f with
    | found => simp [Flag.get] at ht
    | extracted | valid | reading => exact ht
  | answered _ _ he | openRead _ _ he | dropped _ he | clearsErr _ _ he | issued _ _ _ he =>
    subst he
    cases f <;> exact ht

/-- A step that sets a flag is the completion of the flag's own stage or of DECODE. -/
theorem step_sets_flag (f : Flag) {s t : State} (h : step s = .next t) (hs : f.get s = false)
    (ht : f.get t = true) :
    ∃ w, s.eng = .busy w ∧ t.eng = .idle ∧ (decode w = f.stage ∨ decode w = .decode) := by
  cases step_cases h with
  | quiet _ _ he =>
    subst he
    simp [hs] at ht
  | bus op rest _ _ heff =>
    have hmoved : f.get (afterMove s rest) = f.get s := by cases f <;> rfl
    have hset : f.get s = true := hmoved.symm.trans (heff.get_flag f ht)
    simp [hs] at hset
  | wait rest _ _ heff =>
    have hmoved : f.get { afterMove s rest with
        inputs := if s.isBusy then .wait :: rest else rest } = f.get s := by cases f <;> rfl
    have hset : f.get s = true := hmoved.symm.trans (heff.get_flag f ht)
    simp [hs] at hset
  | reset _ _ _ _ he =>
    subst he
    cases f <;> cases ht
  | engine w hw _ hexec =>
    have hturn : f.get { s with turns := s.turns.tail } = false := by cases f <;> exact hs
    exact ⟨w, hw, (exec_effect hexec).sets_flag f hturn ht⟩

/-- Settles O45: a transaction sets no flag, a reset edge clears all, and a command sets only the
flag of its own stage. -/
theorem flagsAreSetOnlyByTheirStage : Obligations.FlagsAreSetOnlyByTheirStage :=
  fun _ _ h => ⟨step_sets_flag .found h, step_sets_flag .extracted h, step_sets_flag .valid h,
    step_sets_flag .reading h⟩

end Sys2Proof.Machine
end

section
/-! PROOFS. What the port does with a legal access: reads and writes while BUSY (R85, R86), reserved
space (R53), the registers as a host reads and writes them while IDLE (R16 to R41, R87), and the
poll of STATUS (R75). -/

namespace Sys2Proof.Machine

/-! ## The register map, read backwards (R16) -/

theorem offset_eq_iff (off : Offset) (n : Nat) (hn : n < 2 ^ 13) :
    off = BitVec.ofNat 13 n ↔ off.toNat = n := by
  constructor
  · rintro rfl
    exact Nat.mod_eq_of_lt hn
  · rintro rfl
    exact BitVec.eq_of_toNat_eq (Nat.mod_eq_of_lt hn).symm

/-- Only the offset 0x010 reaches STATUS. -/
theorem regAt_eq_status_iff {off : Offset} (ha : off.toNat % 4 = 0) :
    regAt off = .status ↔ off = 0x010 := by
  have h10 : off = (0x010 : Offset) ↔ off.toNat = 16 := offset_eq_iff off 16 (by decide)
  rw [h10]
  by_cases hlow : off.toNat < 0x40
  · rw [regAt_low hlow]
    obtain ⟨w, hw⟩ : ∃ w, off.toNat = 4 * w := ⟨off.toNat / 4, by omega⟩
    have hlt : w < 16 := by omega
    rw [hw, Nat.mul_div_cancel_left w (by decide)]
    interval_cases w <;> simp [lowReg]
  · have hne : regAt off ≠ .status := by
      unfold regAt
      split
      · contradiction
      · split_ifs <;> simp
    simp only [hne, false_iff]
    omega

/-- The offsets whose reads are open while BUSY (R86). -/
theorem openWhileBusy_regAt {b : Build} (hb : b.Legal) {off : Offset} (ha : off.toNat % 4 = 0) :
    openWhileBusy b (regAt off) = true ↔ off = 0x010 ∨ off = 0x01C ∨
      (0x020 ≤ off.toNat ∧ off.toNat ≤ 0x03C) ∨
      (0x100 ≤ off.toNat ∧ off.toNat < 0x100 + 12 * b.repeatCount) := by
  obtain ⟨-, hmax, -⟩ := hb
  have h10 : off = (0x010 : Offset) ↔ off.toNat = 16 := offset_eq_iff off 16 (by decide)
  have h1c : off = (0x01C : Offset) ↔ off.toNat = 28 := offset_eq_iff off 28 (by decide)
  rw [h10, h1c]
  by_cases hlow : off.toNat < 0x40
  · rw [regAt_low hlow]
    obtain ⟨w, hw⟩ : ∃ w, off.toNat = 4 * w := ⟨off.toNat / 4, by omega⟩
    have hlt : w < 16 := by omega
    rw [hw, Nat.mul_div_cancel_left w (by decide)]
    interval_cases w <;> simp [lowReg, openWhileBusy]
  · by_cases hframe : 0x100 ≤ off.toNat ∧ off.toNat < 0x140
    · rw [regAt_frameBuf hframe.1 hframe.2]
      simp only [openWhileBusy, decide_eq_true_eq]
      omega
    · have hclosed : openWhileBusy b (regAt off) = false := by
        by_cases hcap : 0x1000 ≤ off.toNat
        · rw [regAt_capMem hcap]
          rfl
        · rw [regAt_reserved (by omega)]
          rfl
      simp only [hclosed, Bool.false_eq_true, false_iff]
      omega

/-! ## Writes (R85) -/

/-- A register that is neither dropped while BUSY nor STATUS takes no write at all (R53, R54). -/
theorem writeReg_ignored {s : State} {r : Reg} (data : Word) (hr : droppedWhileBusy r = false)
    (hs : r ≠ .status) : writeReg s r data = .done s := by
  rw [writeReg_kept data hr]
  cases r with
  | status => contradiction
  | ctrl | cmd | capLen | startOffset | capMem => simp [droppedWhileBusy] at hr
  | config | capSize | matchOffset | device | temperature | humidity | rain | rainVolume
  | windSpeed | windDir | windLabel | frameBuf | reserved => rfl

/-- The busy drop (R85). -/
theorem step_write_dropped {s : State} {p : Word} {off : Offset} {data : Word}
    {rest : List Stimulus} (he : s.eng = .busy p)
    (h : HostMoves s (.bus (.write off data 0b1111)) rest) (ha : off.toNat % 4 = 0)
    (hd : droppedWhileBusy (regAt off) = true) :
    step s = .next { s with
      inputs := rest, turns := s.turns.tail, resp := some ⟨0, false⟩, errBusyWrite := true } := by
  have hanswered : ((afterMove s rest).answer 0 false).eng = .busy p := he
  rw [step_write h ha, writeReg_dropped hanswered data hd, afterMove_busy he]
  rfl

/-- Settles O11: the busy drop catches the five places of R85, STATUS has its own rule, and every
other register takes no write. -/
theorem writeWhileBusy : Obligations.WriteWhileBusy := by
  intro s p off data rest he h ha
  rcases Bool.eq_false_or_eq_true (droppedWhileBusy (regAt off)) with hd | hd
  · rw [step_write_dropped he h ha hd, if_pos ((droppedWhileBusy_regAt off ha).1 hd)]
  · have hkept := mt (droppedWhileBusy_regAt off ha).2 (by simp [hd])
    rw [step_write h ha, afterMove_busy he, if_neg hkept]
    by_cases hs : regAt off = .status
    · rw [hs, writeReg_status, if_pos ((regAt_eq_status_iff ha).1 hs)]
      rfl
    · rw [writeReg_ignored data hd hs, if_neg (mt (regAt_eq_status_iff ha).2 hs)]
      rfl

/-! ## Reads while BUSY (R86) -/

theorem busyValue_of_ne_status (s : State) {r : Reg} (hr : r ≠ .status) (any : Word) :
    busyValue s r any = any := by
  cases r <;> trivial

/-- An open read while BUSY answers with the next free value and counts it. -/
theorem step_read_open {s : State} {p : Word} {off : Offset} {rest : List Stimulus}
    (he : s.eng = .busy p) (h : HostMoves s (.bus (.read off)) rest) (ha : off.toNat % 4 = 0)
    (ho : openWhileBusy s.build (regAt off) = true) :
    step s = .next { s with
      inputs := rest, turns := s.turns.tail, freeReads := s.freeReads + 1,
      resp := some ⟨busyValue s (regAt off) (Config.busyRead s.freeReads), false⟩ } := by
  have hmoved : (afterMove s rest).eng = .busy p := he
  rw [step_read h ha, readReg_busy_open hmoved ho, afterMove_busy he]
  cases regAt off <;> rfl

/-- A read that is not open while BUSY is the same read as while IDLE, in either engine state. -/
theorem step_read_closed {s : State} {off : Offset} {rest : List Stimulus}
    (h : HostMoves s (.bus (.read off)) rest) (ha : off.toNat % 4 = 0)
    (ho : openWhileBusy s.build (regAt off) = false) :
    step s = .next { afterMove s rest with resp := some ⟨regValue s (regAt off), false⟩ } := by
  rw [step_read h ha, readReg_busy_closed (s := afterMove s rest) ho, regValue_afterMove]
  rfl

/-- Settles O12: the offset decides whether the read is open; one that is not does not look at the
engine. -/
theorem readWhileBusy : Obligations.ReadWhileBusy := by
  intro s p off rest hb he h ha
  have hopen := openWhileBusy_regAt hb ha
  by_cases hstatus : off = 0x010
  · refine ⟨busyStatusWord s (Config.busyRead s.freeReads), ?_⟩
    have hbit := busyStatusWord_getLsbD s (Config.busyRead s.freeReads)
    have hreg := (regAt_eq_status_iff ha).2 hstatus
    have hstep := step_read_open he h ha (hopen.2 (.inl hstatus))
    rw [hreg] at hstep
    rw [if_pos hstatus]
    exact ⟨hstep, hbit 0 (by decide), hbit 1 (by decide), hbit 16 (by decide),
      fun i hi h0 h1 h16 => by rw [hbit i hi, if_neg h0, if_neg h1, if_neg h16]⟩
  · simp only [if_neg hstatus]
    by_cases hfree : off = 0x01C ∨ (0x020 ≤ off.toNat ∧ off.toNat ≤ 0x03C) ∨
        (0x100 ≤ off.toNat ∧ off.toNat < 0x100 + 12 * s.build.repeatCount)
    · refine ⟨Config.busyRead s.freeReads, ?_⟩
      have hstep := step_read_open he h ha (hopen.2 (.inr hfree))
      rw [busyValue_of_ne_status s (mt (regAt_eq_status_iff ha).1 hstatus)] at hstep
      rw [if_pos hfree]
      exact ⟨hstep, rfl⟩
    · have hclosed : openWhileBusy s.build (regAt off) = false :=
        Bool.eq_false_iff.2 fun ho => (hopen.1 ho).elim hstatus hfree
      refine ⟨regValue s (regAt off), ?_⟩
      have hbusy := step_read_closed h ha hclosed
      have hidle := step_read_idle (s := { s with eng := .idle }) rfl h.1 ha
      rw [afterMove_busy he] at hbusy
      rw [regValue_closed hclosed] at hidle
      rw [if_neg hfree]
      exact ⟨hbusy, hidle⟩

/-! ## Reserved space (R53) -/

/-- The registers of reserved space: they read 0 and are not open while BUSY. -/
inductive ReservedReg (b : Build) : Reg → Prop where
  | reserved : ReservedReg b .reserved
  | frameBuf (w : Nat) (hw : 3 * b.repeatCount ≤ w) : ReservedReg b (.frameBuf w)
  | capMem (w : Nat) (hw : b.capBitsMax / 32 ≤ w) : ReservedReg b (.capMem w)

theorem ReservedReg.closed {b : Build} {r : Reg} (h : ReservedReg b r) :
    openWhileBusy b r = false := by
  cases h with
  | reserved | capMem => rfl
  | frameBuf w hw => simpa [openWhileBusy] using hw

theorem ReservedReg.regValue_zero {s : State} {r : Reg} (h : ReservedReg s.build r) :
    regValue s r = 0 := by
  cases h with
  | reserved => rfl
  | frameBuf w hw => exact frameWordRead_reserved s hw
  | capMem w hw => exact if_neg (Nat.not_lt.2 hw)

/-- A read of reserved space answers 0, IDLE or BUSY. -/
theorem step_read_reserved {s : State} {off : Offset} {rest : List Stimulus}
    (h : HostMoves s (.bus (.read off)) rest) (ha : off.toNat % 4 = 0)
    (hr : ReservedReg s.build (regAt off)) :
    step s = .next { afterMove s rest with resp := some ⟨0, false⟩ } := by
  rw [step_read_closed h ha hr.closed, hr.regValue_zero]

/-- Settles O15: below CAP_MEM the reserved offsets are those of no register and the slots of
FRAME_BUF that the build has not. -/
theorem reservedSpace : Obligations.ReservedSpace := by
  intro s off rest hb ha hoff
  obtain ⟨hmin, hmax, -⟩ := hb
  have hreg : ReservedReg s.build (regAt off) ∧ droppedWhileBusy (regAt off) = false ∧
      regAt off ≠ .status := by
    by_cases hframe : 0x100 ≤ off.toNat ∧ off.toNat < 0x140
    · rw [regAt_frameBuf hframe.1 hframe.2]
      exact ⟨.frameBuf _ (by omega), rfl, by simp⟩
    · rw [regAt_reserved (by omega)]
      exact ⟨.reserved, rfl, by simp⟩
  obtain ⟨hreserved, hdropped, hstatus⟩ := hreg
  refine ⟨fun h => step_read_reserved h ha hreserved, fun data h => ?_⟩
  rw [step_write h ha, writeReg_ignored data hdropped hstatus]
  rfl

/-- A slot that the build has not stores nothing. -/
theorem capWordWrite_reserved (s : State) {w : Nat} (hw : s.build.capBitsMax / 32 ≤ w)
    (data : Word) : capWordWrite s w data = s := if_neg (Nat.not_lt.2 hw)

/-- Settles O16: the slot stores nothing, and the rules of R85 and R87 do not look at the slot. -/
theorem reservedCaptureSlots : Obligations.ReservedCaptureSlots := by
  intro s off rest ha hoff
  have hreg : regAt off = .capMem ((off.toNat - 0x1000) / 4) := regAt_capMem (by omega)
  have hslot : s.build.capBitsMax / 32 ≤ (off.toNat - 0x1000) / 4 := by omega
  refine ⟨fun h => step_read_reserved h ha (hreg ▸ .capMem _ hslot),
    fun data h => ⟨fun he => ?_, fun p he => ?_⟩⟩
  · rw [step_write_idle he h.1 ha, hreg, writeRule,
      capWordWrite_reserved { s with inputs := rest, resp := some ⟨0, false⟩ } hslot]
    rfl
  · exact step_write_dropped he h ha (hreg ▸ rfl)

/-! ## Reads while IDLE (R16 to R41) -/

theorem legal_repeatCount_lt {b : Build} (hb : b.Legal) : b.repeatCount < 16 := by
  obtain ⟨-, hmax, -⟩ := hb
  omega

theorem legal_capBitsMax_lt {b : Build} (hb : b.Legal) : b.capBitsMax < 65536 := by
  obtain ⟨-, -, -, -, hmax⟩ := hb
  omega

/-- CTRL reads the INVERT bit (R19). -/
theorem ctrlWord_toNat (b : Bool) : (0#31 ++ BitVec.ofBool b : BitVec 32).toNat = b.toNat := by
  cases b <;> rfl

/-- A bit offset is read with zeros above (R31 to R33). -/
theorem bitOffset_setWidth_toNat (v : BitOffset) : (v.setWidth 32).toNat = v.toNat :=
  BitVec.toNat_setWidth_of_le (by decide)

/-- Settles O17: the value read is that of the register at the offset, as a number. -/
theorem idleReadOfEachRegister : Obligations.IdleReadOfEachRegister := by
  intro s off rest hb he hi ha
  refine ⟨regValue s (regAt off), step_read_idle he hi ha, ?config, ?capSize, ?ctrl, ?cmd, ?capLen,
    ?startOffset, ?matchOffset, ?device, ?temperature, ?humidity, ?rain, ?rainVolume, ?windSpeed,
    ?windDir, ?windLabel⟩ <;> rintro rfl
  case config => exact configWord_toNat (legal_repeatCount_lt hb)
  case capSize => exact capSizeWord_toNat (legal_capBitsMax_lt hb)
  case ctrl => exact ctrlWord_toNat s.invert
  case capLen => exact bitOffset_setWidth_toNat s.capLen
  case startOffset => exact bitOffset_setWidth_toNat s.startOffset
  case matchOffset => exact bitOffset_setWidth_toNat s.matchOffset
  all_goals rfl

/-- Settles O18: the STATUS word of an IDLE state as a number. -/
theorem statusReadShowsTheFlags : Obligations.StatusReadShowsTheFlags := by
  intro s rest he hi
  refine ⟨statusWord s, step_read_idle he hi (by decide), ?_⟩
  rw [statusWord_toNat, (isBusy_eq_false_iff s).2 he, Bool.toNat_false, Nat.zero_add]
  cases s.reason <;> rfl

/-! ## Input writes while IDLE (R31, R55, R87) -/

/-- CAP_LEN takes the lower of the value and the capacity (R31). -/
theorem saturate_toNat {b : Build} (hb : b.Legal) (v : BitOffset) :
    (saturate b v).toNat = min v.toNat b.capBitsMax := by
  have hmax := legal_capBitsMax_lt hb
  unfold saturate
  split
  · next hle => rw [Nat.min_eq_left hle]
  · next hgt =>
    rw [Nat.min_eq_right (by omega), BitVec.toNat_ofNat]
    exact Nat.mod_eq_of_lt hmax

/-- data[15:0] (R31, R32). -/
theorem low16_toNat (data : Word) : (data.extractLsb' 0 16).toNat = data.toNat % 65536 := by
  simp [BitVec.extractLsb'_toNat]

/-- Byte i of a written word, counted from the most significant one (R55). -/
theorem Memory.read_writeWord_byte (m : Memory) (a : Nat) (v : Word) {i : Nat} (hi : i < 4) :
    (m.writeWord a v).read (a + i) = v.extractLsb' (24 - 8 * i) 8 := by
  rw [Memory.writeWord, Memory.read_writeBytes_inside (wordBytes v) m a i hi]
  interval_cases i <;> rfl

/-- A write of a slot of CAP_MEM writes memory and nothing else. -/
theorem capWordWrite_writes (s : State) (w : Nat) (data : Word) :
    capWordWrite s w data = { s with mem := (capWordWrite s w data).mem } := by
  unfold capWordWrite
  split <;> rfl

/-- It leaves every byte but the four of the slot alone. -/
theorem capWordWrite_read_other (s : State) (w : Nat) (data : Word) (a : Nat)
    (h : a < capBase + 4 * w ∨ capBase + 4 * w + 4 ≤ a) :
    (capWordWrite s w data).mem.read a = s.mem.read a := by
  unfold capWordWrite
  split
  · exact Memory.read_writeWord_other _ _ _ _ h
  · rfl

/-- Settles O21: each input register stores by its own rule, and then the invalidation of R87 is the
only other write. -/
theorem inputRegisterWrites : Obligations.InputRegisterWrites := by
  intro s off data rest hb he hi
  refine ⟨?ctrl, ?capLen, ?startOffset, fun hcap ha => ?capMem⟩
  case ctrl =>
    rintro rfl
    exact step_write_idle he hi (by decide)
  case capLen =>
    rintro rfl
    refine ⟨_, step_write_idle he hi (by decide), rfl, ?_⟩
    exact (saturate_toNat hb _).trans (by rw [low16_toNat])
  case startOffset =>
    rintro rfl
    exact ⟨_, step_write_idle he hi (by decide), rfl, low16_toNat data⟩
  case capMem =>
    obtain ⟨w, hw⟩ : ∃ w, off.toNat = capBase + 4 * w :=
      ⟨(off.toNat - capBase) / 4, by unfold capBase; omega⟩
    have hstep := step_write_idle he hi ha
    rw [regAt_capMem_slot hw] at hstep
    refine ⟨_, hstep, ?_, fun hlt i hi4 => ?_, fun a hout => ?_⟩
    · exact congrArg State.inputWritten
        (capWordWrite_writes { s with inputs := rest, resp := some ⟨0, false⟩ } w data)
    · obtain ⟨-, -, hdiv, -⟩ := hb
      have hslot : w < s.build.capBitsMax / 32 := by
        unfold capBase at hw
        omega
      rw [hw, capWordWrite_eq { s with inputs := rest, resp := some ⟨0, false⟩ } hslot]
      exact Memory.read_writeWord_byte _ _ _ hi4
    · exact capWordWrite_read_other _ w data a (hw ▸ hout)

/-! ## The poll of STATUS (R75) -/

/-- A poll of WAIT is a read of STATUS. -/
theorem transaction_read_status (s : State) :
    transaction s (.read statusOffset) = .done (readReg s .status) := rfl

/-- Bit 0 of STATUS is BUSY (R22). -/
theorem statusWord_busy (s : State) : (statusWord s).getLsbD 0 = s.isBusy := by
  rw [BitVec.getLsbD, Nat.testBit_zero, statusWord_toNat]
  cases s.isBusy <;> simp <;> omega

theorem step_wait_idle {s : State} {rest : List Stimulus} (he : s.eng = .idle)
    (h : HostMoves s .wait rest) :
    step s = .next { s with inputs := rest, resp := some ⟨statusWord s, false⟩ } := by
  have hpolled : State.eng { afterMove s rest with inputs := rest } = .idle := he
  rw [step_wait h, transaction_read_status, (isBusy_eq_false_iff s).2 he, if_neg (by decide),
    readReg_idle hpolled, afterMove_idle he]
  rfl

theorem step_wait_busy {s : State} {p : Word} {rest : List Stimulus} (he : s.eng = .busy p)
    (h : HostMoves s .wait rest) :
    step s = .next { s with
      turns := s.turns.tail, freeReads := s.freeReads + 1,
      resp := some ⟨busyStatusWord s (Config.busyRead s.freeReads), false⟩ } := by
  have hpolled : State.eng { afterMove s rest with inputs := .wait :: rest } = .busy p := he
  rw [step_wait h, transaction_read_status, (isBusy_eq_true_iff s).2 ⟨p, he⟩, if_pos rfl,
    readReg_busy_open hpolled rfl, afterMove_busy he, h.1]
  rfl

/-- Settles O23: the poll reads STATUS, whose bit 0 is BUSY in either engine state. -/
theorem waitPollsStatus : Obligations.WaitPollsStatus := by
  intro s rest h
  refine ⟨fun he => ⟨statusWord s, step_wait_idle he h, ?_⟩,
    fun p he => ⟨busyStatusWord s (Config.busyRead s.freeReads), step_wait_busy he h, ?_⟩⟩
  · rw [statusWord_busy, (isBusy_eq_false_iff s).2 he]
  · exact busyStatusWord_getLsbD s _ 0 (by decide)

end Sys2Proof.Machine
end

section
/-! PROOFS. The sticky bit ERR_BUSY_WRITE (R30, R85), and the host that waits after every command:
it loses no write and reads no open value but in a poll of STATUS (R76, R131, R132). -/

namespace Sys2Proof.Machine

/-! ## What a transaction does to ERR_BUSY_WRITE (R30, R85) -/

/-- ERR_BUSY_WRITE after a legal write to `r`. -/
def errAfterWrite (s : State) (r : Reg) (data : Word) : Bool :=
  if s.isBusy && droppedWhileBusy r then true
  else if r = .status then s.errBusyWrite && !data.getLsbD 16
  else s.errBusyWrite

theorem capWordWrite_errBusyWrite (s : State) (w : Nat) (data : Word) :
    (capWordWrite s w data).errBusyWrite = s.errBusyWrite := by rw [capWordWrite_writes]

/-- No register's own rule but that of STATUS touches the bit. -/
theorem writeRule_errBusyWrite (s : State) (r : Reg) (data : Word) :
    ∃ t, (writeRule s r data).outcome = .next t ∧ t.errBusyWrite =
      if r = .status then s.errBusyWrite && !data.getLsbD 16 else s.errBusyWrite := by
  cases r with
  | cmd =>
    by_cases hw : data = 0
    · subst hw
      exact ⟨s, congrArg Action.outcome (issue_nop s), rfl⟩
    · exact ⟨s.beginCommand data, congrArg Action.outcome (issue_other s hw), rfl⟩
  | capMem w =>
    exact ⟨(capWordWrite s w data).inputWritten, rfl, capWordWrite_errBusyWrite s w data⟩
  | _ => exact ⟨_, rfl, rfl⟩

theorem writeReg_errBusyWrite (s : State) (r : Reg) (data : Word) :
    ∃ t, (writeReg s r data).outcome = .next t ∧ t.errBusyWrite = errAfterWrite s r data := by
  unfold writeReg errAfterWrite
  split
  · exact ⟨s.busyDrop, rfl, rfl⟩
  · exact writeRule_errBusyWrite s r data

/-- A read leaves the bit alone (R59). -/
theorem transaction_read_errBusyWrite {s t : State} {off : Offset}
    (h : (transaction s (.read off)).outcome = .next t) : t.errBusyWrite = s.errBusyWrite := by
  rw [transaction_read h]

/-- An access that changes the bit is a legal write, which changes it by its own rule. -/
theorem transaction_changes_errBusyWrite {s t : State} {op : BusOp}
    (h : (transaction s op).outcome = .next t) (hne : t.errBusyWrite ≠ s.errBusyWrite) :
    ∃ off data, op = .write off data 0b1111 ∧ off.toNat % 4 = 0 ∧
      t.errBusyWrite = errAfterWrite s (regAt off) data := by
  cases op with
  | read off => exact absurd (transaction_read_errBusyWrite h) hne
  | write off data be =>
    by_cases hl : legal (.write off data be) = true
    · obtain ⟨ha, rfl⟩ := (legal_write_iff off data be).1 hl
      obtain ⟨u, hu, herr⟩ := writeReg_errBusyWrite (s.answer 0 false) (regAt off) data
      rw [transaction, if_pos hl, perform, hu] at h
      obtain rfl : u = t := by simpa using h
      exact ⟨off, data, rfl, ha, herr⟩
    · rw [transaction, if_neg hl] at h
      obtain rfl : s.answer 0 true = t := by simpa using h
      exact absurd rfl hne

/-- A step that changes the bit is a legal write, which changes it by its own rule, or a reset
edge. -/
theorem step_changes_errBusyWrite {s t : State} (h : step s = .next t)
    (hne : t.errBusyWrite ≠ s.errBusyWrite) :
    (∃ off data rest, HostMoves s (.bus (.write off data 0b1111)) rest ∧ off.toNat % 4 = 0 ∧
      t.errBusyWrite = errAfterWrite s (regAt off) data) ∨
    (t.errBusyWrite = false ∧ ∃ op rest, HostMoves s (.reset op) rest) := by
  cases step_cases h with
  | quiet _ _ ht => exact absurd (congrArg State.errBusyWrite ht) hne
  | bus op rest hm ht _ =>
    obtain ⟨off, data, rfl, ha, herr⟩ := transaction_changes_errBusyWrite ht hne
    exact .inl ⟨off, data, rest, hm, ha, herr⟩
  | wait rest _ ht _ => exact absurd (transaction_read_errBusyWrite ht) hne
  | reset op rest hm r ht =>
    subst ht
    exact .inr ⟨rfl, op, rest, hm⟩
  | engine w _ _ ht => exact absurd (exec_effect ht).registersKept.errBusyWrite hne

/-- Settles O22: where the bit changes, the rule of the write says which write it was. -/
theorem errBusyWriteIsSticky : Obligations.ErrBusyWriteIsSticky := by
  refine ⟨fun _ => rfl, fun s t h => ⟨fun hs => ⟨fun ht => ?set, ?dropped⟩,
    fun hs => ⟨fun ht => ?cleared, ?clears⟩⟩⟩
  case set =>
    rcases step_changes_errBusyWrite h (by simp [hs, ht]) with
      ⟨off, data, rest, hm, ha, herr⟩ | ⟨hfalse, -⟩
    · have hdrop : (s.isBusy && droppedWhileBusy (regAt off)) = true := by
        by_contra hkept
        rw [errAfterWrite, if_neg hkept, hs, ht] at herr
        simp at herr
      rw [Bool.and_eq_true] at hdrop
      exact ⟨hdrop.1, off, data, rest, hm, ha, (droppedWhileBusy_regAt off ha).1 hdrop.2⟩
    · simp [ht] at hfalse
  case dropped =>
    rintro ⟨hbusy, off, data, rest, hm, ha, hoff⟩
    obtain ⟨p, he⟩ := (isBusy_eq_true_iff s).1 hbusy
    rw [step_write_dropped he hm ha ((droppedWhileBusy_regAt off ha).2 hoff)] at h
    cases h
    rfl
  case cleared =>
    rcases step_changes_errBusyWrite h (by simp [hs, ht]) with
      ⟨off, data, rest, hm, ha, herr⟩ | ⟨-, hreset⟩
    · rw [ht, errAfterWrite, hs] at herr
      split at herr
      · contradiction
      · split at herr
        · next hstatus =>
          obtain rfl := (regAt_eq_status_iff ha).1 hstatus
          exact .inl ⟨data, rest, hm, by simpa using herr⟩
        · contradiction
    · exact .inr hreset
  case clears =>
    rintro (⟨data, rest, hm, hbit⟩ | ⟨op, rest, hm⟩)
    · rw [step_write hm (by decide), show regAt 0x010 = .status from rfl, writeReg_status] at h
      cases h
      simp [hbit]
    · obtain ⟨r, hr⟩ := step_reset hm
      rw [hr] at h
      cases h
      rfl

/-! ## A host that waits (R76) -/

/-- Knowing that no command runs asks less of the rest of the program. -/
theorem paced_of_pending {b : Bool} {is : List Stimulus} (h : paced b is = true) :
    paced false is = true := by
  induction is generalizing b with
  | nil => rfl
  | cons st is ih =>
    cases st with
    | wait => exact h
    | reset _ => exact h
    | bus op =>
      simp only [paced, Bool.and_eq_true, Bool.false_and, Bool.not_false, true_and,
        Bool.false_or] at h ⊢
      obtain ⟨-, hrest⟩ := h
      cases hop : issuesCommand op with
      | false => exact ih hrest
      | true => simpa [hop] using hrest

theorem paced_mono {b c : Bool} {is : List Stimulus} (h : paced b is = true)
    (hbc : c = true → b = true) : paced c is = true := by
  cases c with
  | false => exact paced_of_pending h
  | true => rwa [hbc rfl] at h

/-- No transaction changes what the outside world does next. -/
theorem TransactionEffect.inputs {s t : State} (h : TransactionEffect s t) :
    t.inputs = s.inputs := by
  cases h with
  | captureWrite w data _ ht =>
    subst ht
    rw [State.inputWritten_inputs, capWordWrite_writes]
    rfl
  | answered _ _ ht | openRead _ _ ht | dropped _ ht | clearsErr _ _ ht | issued _ _ _ ht
  | inputWrite _ _ _ _ _ ht =>
    subst ht
    rfl

/-- A legal write draws no free value, and the engine is BUSY after it only where it was before or
where the write issues a command (R77). -/
theorem writeReg_freeReads_isBusy (s : State) (r : Reg) (data : Word) :
    ∃ t, (writeReg s r data).outcome = .next t ∧ t.freeReads = s.freeReads ∧
      (t.isBusy = true → s.isBusy = true ∨ (r = .cmd ∧ data ≠ 0)) := by
  unfold writeReg
  split
  · exact ⟨s.busyDrop, rfl, rfl, .inl⟩
  · cases r with
    | cmd =>
      by_cases hw : data = 0
      · subst hw
        exact ⟨s, congrArg Action.outcome (issue_nop s), rfl, .inl⟩
      · exact ⟨s.beginCommand data, congrArg Action.outcome (issue_other s hw), rfl,
          fun _ => .inr ⟨rfl, hw⟩⟩
    | capMem w =>
      refine ⟨(capWordWrite s w data).inputWritten, rfl, ?_⟩
      rw [capWordWrite_writes]
      exact ⟨rfl, .inl⟩
    | _ => exact ⟨_, rfl, rfl, .inl⟩

/-- A transaction draws a free value only as an open read, and leaves the engine BUSY only where it
was before or where the transaction issues a command (R77, R86). -/
theorem transaction_freeReads_isBusy {s t : State} {op : BusOp}
    (h : (transaction s op).outcome = .next t) :
    (t.freeReads ≠ s.freeReads → ∃ off, op = .read off ∧ off.toNat % 4 = 0 ∧ s.isBusy = true ∧
      openWhileBusy s.build (regAt off) = true) ∧
    (t.isBusy = true → s.isBusy = true ∨ issuesCommand op = true) := by
  by_cases hl : legal op = true
  · rw [transaction, if_pos hl] at h
    cases op with
    | read off =>
      obtain rfl : readReg s (regAt off) = t := by simpa [perform] using h
      unfold readReg
      split
      · next hopen =>
        rw [Bool.and_eq_true] at hopen
        exact ⟨fun _ => ⟨off, rfl, (legal_read_iff off).1 hl, hopen⟩, .inl⟩
      · exact ⟨fun hne => absurd rfl hne, .inl⟩
    | write off data be =>
      obtain ⟨u, hu, hfree, hbusy⟩ :=
        writeReg_freeReads_isBusy (s.answer 0 false) (regAt off) data
      rw [perform, hu] at h
      obtain rfl : u = t := by simpa using h
      refine ⟨fun hne => absurd hfree hne, fun ht => (hbusy ht).imp_right fun ⟨hcmd, hdata⟩ => ?_⟩
      rw [issuesCommand, hl, hcmd, bne_iff_ne.2 hdata]
      rfl
  · rw [transaction, if_neg hl] at h
    obtain rfl : s.answer 0 true = t := by simpa using h
    exact ⟨fun hne => absurd rfl hne, .inl⟩

/-- What a host that waits may present next. -/
theorem Paced.of_bus {s : State} (h : Paced s) {op : BusOp} {rest : List Stimulus}
    (hi : s.inputs = .bus op :: rest) :
    (s.isBusy = true → needsIdle op = false) ∧
      paced (s.isBusy || issuesCommand op) rest = true := by
  obtain ⟨hpaced, -⟩ := h
  rw [hi, paced, Bool.and_eq_true] at hpaced
  obtain ⟨hidle, hrest⟩ := hpaced
  exact ⟨fun hb => by simpa [hb] using hidle, hrest⟩

/-- A host that waits presents no write that is dropped, so it never sets the bit. -/
theorem Paced.step_errBusyWrite {s t : State} (h : Paced s) (ht : step s = .next t) :
    t.errBusyWrite = false := by
  have herr := h.2
  by_contra hset
  rcases step_changes_errBusyWrite ht (by simpa [herr] using hset) with
    ⟨off, data, rest, ⟨hi, -⟩, ha, hafter⟩ | ⟨hclear, -⟩
  · have hlegal : legal (.write off data 0b1111) = true := (legal_write_iff _ _ _).2 ⟨ha, rfl⟩
    have hkept : (s.isBusy && droppedWhileBusy (regAt off)) = false := by
      rw [Bool.and_eq_false_imp]
      intro hb
      have hneeds := (h.of_bus hi).1 hb
      rwa [needsIdle, hlegal, Bool.true_and] at hneeds
    rw [errAfterWrite, hkept, herr] at hafter
    simp [hafter] at hset
  · exact hset hclear

/-- A step leaves the rest of the program paced. -/
theorem Paced.step_paced {s t : State} (h : Paced s) (ht : step s = .next t) :
    paced t.isBusy t.inputs = true := by
  have hpaced := h.1
  cases step_cases ht with
  | quiet _ _ he => exact he ▸ hpaced
  | bus op rest hm htr heff =>
    have hinputs : t.inputs = rest := heff.inputs
    rw [hinputs]
    refine paced_mono (h.of_bus hm.1).2 fun hb => ?_
    exact Bool.or_eq_true_iff.2 ((transaction_freeReads_isBusy htr).2 hb)
  | wait rest hm htr heff =>
    have hrest : paced false rest = true := by
      rw [hm.1] at hpaced
      exact hpaced
    have hbusy : t.isBusy = s.isBusy := by
      rw [transaction_read htr]
      rfl
    have hinputs : t.inputs = if s.isBusy then .wait :: rest else rest := heff.inputs
    rw [hbusy, hinputs]
    cases s.isBusy <;> exact hrest
  | reset op rest hm r he =>
    subst he
    rw [hm.1] at hpaced
    exact hpaced
  | engine w he _ hexec =>
    have hinputs : t.inputs = s.inputs := (exec_effect hexec).registersKept.inputs
    rw [hinputs]
    exact paced_mono hpaced fun _ => (isBusy_eq_true_iff s).2 ⟨w, he⟩

/-- Settles O52: the discipline is kept because only an issued command makes the engine BUSY, and it
asks for a wait before the next write that a BUSY engine would drop. -/
theorem pacedHostLosesNoWrite : Obligations.PacedHostLosesNoWrite :=
  fun _ _ h ht => ⟨h.step_paced ht, h.step_errBusyWrite ht⟩

/-- A read that is open while BUSY waits for the engine to be IDLE, but for the poll of STATUS. -/
theorem needsIdle_of_open {b : Build} {off : Offset} (ha : off.toNat % 4 = 0)
    (ho : openWhileBusy b (regAt off) = true) (hs : regAt off ≠ .status) :
    needsIdle (.read off) = true := by
  rw [needsIdle, (legal_read_iff off).2 ha, Bool.true_and]
  generalize regAt off = r at ho hs
  cases r <;> simp_all [openWhileBusy]

/-- Settles O53: an open read other than a poll of STATUS would be one the host waits for. -/
theorem pacedHostReadsNoOpenValue : Obligations.PacedHostReadsNoOpenValue := by
  intro s t h ht hne
  cases step_cases ht with
  | quiet _ _ he => exact absurd (congrArg State.freeReads he) hne
  | wait rest hm => exact ⟨rest, .inl hm.1⟩
  | reset _ _ _ _ he => exact absurd (congrArg State.freeReads he) hne
  | engine _ _ _ hexec => exact absurd (exec_effect hexec).registersKept.freeReads hne
  | bus op rest hm htr _ =>
    obtain ⟨off, rfl, ha, hb, ho⟩ := (transaction_freeReads_isBusy htr).1 hne
    have hstatus : regAt off = .status := by
      by_contra hs
      have hneeds := (h.of_bus hm.1).1 hb
      rw [needsIdle_of_open ha ho hs] at hneeds
      contradiction
    obtain rfl := (regAt_eq_status_iff ha).1 hstatus
    exact ⟨rest, .inr hm.1⟩

end Sys2Proof.Machine
end

section
/-! PROOFS. The invariants of the block (R89, with R5, R7, R31, R43, R77): they hold at power-up,
and every step keeps them. They fall into four parts, of the storage, the match, the frame and the
record, and each write of a step is answered for in each part by one lemma. -/

namespace Sys2Proof.Machine

/-! ## The four parts -/

/-- A byte of FRAME_BUF or of CAP_MEM in the build `b` (R43, R44). -/
def InWindow (b : Build) (a : Nat) : Prop :=
  (frameBase ≤ a ∧ a < frameBase + 12 * b.repeatCount) ∨
    (capBase ≤ a ∧ a < capBase + b.capBitsMax / 8)

/-- The invariants of the build, memory and CAP_LEN. -/
structure StorageInv (s : State) : Prop where
  legalBuild : s.build.Legal
  memWf : s.mem.wf
  memRange : ∀ c ∈ s.mem, InWindow s.build c.1
  capLenLe : s.capLen.toNat ≤ s.build.capBitsMax

/-- The invariants of FOUND and MATCH_OFFSET (R89 items 1 and 2). -/
structure MatchInv (s : State) : Prop where
  foundIff : s.found = false ↔ s.matchOffset = 0xFFFF
  foundMatch : s.found = true → FirstMatch s s.matchOffset.toNat

/-- The invariants of EXTRACTED, VALID, READING and the results (R89 items 3 to 6). -/
structure FrameInv (s : State) : Prop where
  extractedPreamble : s.extracted = true →
    frameByte s 0 = 0xAA ∧ frameByte s 1 = 0xA5 ∧ frameByte s 2 = 0x98
  validAgrees : s.valid = true → s.extracted = true ∧ CopiesAgree s
  readingFields : s.reading = true → s.valid = true ∧ s.results = readingOf (frameByte s)
  noReading : s.reading = false → s.results = Results.zero

/-- The invariants of the engine and the completion record (R77, R89 item 7). -/
structure RecordInv (s : State) : Prop where
  pending : ∀ w, s.eng = .busy w → decode w ≠ .nop ∧ s.done = false
  rejectedIff : s.rejected = true ↔ s.reason ≠ .none
  notDone : s.eng = .idle → s.done = false → s.rejected = false ∧ s.reason = .none

theorem inv_iff (s : State) :
    Inv s ↔ StorageInv s ∧ MatchInv s ∧ FrameInv s ∧ RecordInv s :=
  ⟨fun h => ⟨⟨h.legalBuild, h.memWf, h.memRange, h.capLenLe⟩, ⟨h.foundIff, h.foundMatch⟩,
      ⟨h.extractedPreamble, h.validAgrees, h.readingFields, h.noReading⟩,
      ⟨h.pending, h.rejectedIff, h.notDone⟩⟩,
    fun ⟨hs, hm, hf, hr⟩ => ⟨hs.legalBuild, hs.memWf, hs.memRange, hs.capLenLe, hr.pending,
      hm.foundIff, hm.foundMatch, hf.extractedPreamble, hf.validAgrees, hf.readingFields,
      hf.noReading, hr.rejectedIff, hr.notDone⟩⟩

/-! ## Storage -/

section Storage

variable {s t : State}

/-- A write of bytes of the window keeps the storage invariants. -/
theorem StorageInv.writeBytes (h : StorageInv s) {a : Nat} {bs : List Byte}
    (hbuild : t.build = s.build) (hmem : t.mem = s.mem.writeBytes a bs)
    (hcapLen : t.capLen.toNat ≤ s.build.capBitsMax)
    (hin : ∀ b, a ≤ b → b < a + bs.length → InWindow s.build b) : StorageInv t where
  legalBuild := hbuild ▸ h.legalBuild
  memWf := hmem ▸ Memory.wf_writeBytes bs a h.memWf
  memRange c hc := by
    rw [hmem] at hc
    rw [hbuild]
    rcases Memory.mem_writeBytes hc with hold | ⟨hge, hlt⟩
    · exact h.memRange c hold
    · exact hin c.1 hge hlt
  capLenLe := hbuild ▸ hcapLen

theorem StorageInv.of_mem (h : StorageInv s) (hbuild : t.build = s.build) (hmem : t.mem = s.mem)
    (hcapLen : t.capLen.toNat ≤ s.build.capBitsMax) : StorageInv t :=
  h.writeBytes (a := 0) (bs := []) hbuild hmem hcapLen fun _ _ hlt => absurd hlt (Nat.not_lt_zero _)

/-- A write of the whole of FRAME_BUF keeps the storage invariants. -/
theorem StorageInv.writeFrame (h : StorageInv s) {bs : List Byte} (hbuild : t.build = s.build)
    (hmem : t.mem = s.mem.writeBytes frameBase bs) (hlen : bs.length = 12 * s.build.repeatCount)
    (hcapLen : t.capLen.toNat ≤ s.build.capBitsMax) : StorageInv t :=
  h.writeBytes hbuild hmem hcapLen fun _ hge hlt => .inl ⟨hge, hlen ▸ hlt⟩

/-- So does a write of a slot of CAP_MEM. -/
theorem StorageInv.capWordWrite (h : StorageInv s) (w : Nat) (data : Word) :
    StorageInv (capWordWrite s w data) := by
  by_cases hw : w < s.build.capBitsMax / 32
  · rw [capWordWrite_eq s hw]
    refine h.writeBytes (a := capBase + 4 * w) (bs := wordBytes data) rfl rfl h.capLenLe
      fun b hge hlt => .inr ⟨by omega, ?_⟩
    rw [wordBytes_length] at hlt
    omega
  · rw [capWordWrite_reserved s (Nat.not_lt.1 hw)]
    exact h

end Storage

/-! ## The match -/

section Match

variable {s t : State}

theorem MatchInv.of_cleared (hfound : t.found = false) (hmatch : t.matchOffset = notFound) :
    MatchInv t :=
  ⟨⟨fun _ => hmatch, fun _ => hfound⟩, fun h => by simp [hfound] at h⟩

theorem MatchInv.of_sameCapture (h : MatchInv s) (hc : SameCapture s t)
    (hfound : t.found = s.found) (hmatch : t.matchOffset = s.matchOffset) : MatchInv t := by
  constructor
  · rw [hfound, hmatch]
    exact h.foundIff
  · rw [hfound, hmatch, hc.firstMatch_iff]
    exact h.foundMatch

theorem MatchInv.of_firstMatch {k : Nat} (hk : FirstMatch s k) (hc : SameCapture s t)
    (hfound : t.found = true) (hmatch : t.matchOffset = BitVec.ofNat 16 k) : MatchInv t := by
  constructor
  · rw [hfound, hmatch]
    exact ⟨fun h => by simp at h, fun h => absurd h hk.ne_notFound⟩
  · intro _
    rw [hmatch, hk.toNat_ofNat, hc.firstMatch_iff]
    exact hk

end Match

/-! ## The frame -/

section Frame

variable {s t : State}

theorem FrameInv.of_cleared (hextracted : t.extracted = false) (hvalid : t.valid = false)
    (hreading : t.reading = false) (hresults : t.results = Results.zero) : FrameInv t where
  extractedPreamble h := by simp [hextracted] at h
  validAgrees h := by simp [hvalid] at h
  readingFields h := by simp [hreading] at h
  noReading _ := hresults

/-- The same frame with the same flags and results. -/
theorem FrameInv.of_sameFrame (h : FrameInv s) (hb : s.build.Legal) (hf : SameFrame s t)
    (hextracted : t.extracted = s.extracted) (hvalid : t.valid = s.valid)
    (hreading : t.reading = s.reading) (hresults : t.results = s.results) : FrameInv t where
  extractedPreamble he := by
    obtain ⟨hmin, -⟩ := hb
    rw [hf.frame 0 (by omega), hf.frame 1 (by omega), hf.frame 2 (by omega)]
    exact h.extractedPreamble (hextracted ▸ he)
  validAgrees hv := by
    rw [hextracted, hf.copiesAgree_iff]
    exact h.validAgrees (hvalid ▸ hv)
  readingFields hr := by
    rw [hvalid, hresults, hf.readingOf_eq hb]
    exact h.readingFields (hreading ▸ hr)
  noReading hr := by
    rw [hresults]
    exact h.noReading (hreading ▸ hr)

/-- A frame that starts with the preamble, not validated yet. -/
theorem FrameInv.of_preamble
    (hpreamble : frameByte t 0 = 0xAA ∧ frameByte t 1 = 0xA5 ∧ frameByte t 2 = 0x98)
    (hvalid : t.valid = false) (hreading : t.reading = false)
    (hresults : t.results = Results.zero) : FrameInv t where
  extractedPreamble _ := hpreamble
  validAgrees h := by simp [hvalid] at h
  readingFields h := by simp [hreading] at h
  noReading _ := hresults

/-- EXTRACTED without VALID and READING. -/
theorem FrameInv.invalidateValid (h : FrameInv s) : FrameInv s.invalidateValid where
  extractedPreamble := h.extractedPreamble
  validAgrees h := by simp at h
  readingFields h := by simp at h
  noReading _ := rfl

theorem FrameInv.validated (h : FrameInv s) (hextracted : s.extracted = true)
    (ha : CopiesAgree s) : FrameInv s.validated where
  extractedPreamble := h.extractedPreamble
  validAgrees _ := ⟨hextracted, ha⟩
  readingFields h := by simp [State.validated] at h
  noReading _ := rfl

theorem FrameInv.withReading (h : FrameInv s) (hvalid : s.valid = true) :
    FrameInv s.withReading where
  extractedPreamble := h.extractedPreamble
  validAgrees _ := h.validAgrees hvalid
  readingFields _ := ⟨hvalid, rfl⟩
  noReading h := by simp [State.withReading] at h

end Frame

/-! ## The record -/

section Record

variable {s t : State}

theorem RecordInv.recordComplete (s : State) : RecordInv s.recordComplete where
  pending w h := by simp at h
  rejectedIff := by simp
  notDone _ h := by simp at h

theorem RecordInv.recordReject (s : State) {c : Reason} (hc : c ≠ .none) :
    RecordInv (s.recordReject c) where
  pending w h := by simp at h
  rejectedIff := by simp [hc]
  notDone _ h := by simp at h

theorem RecordInv.beginCommand (h : RecordInv s) {w : Word} (hw : decode w ≠ .nop) :
    RecordInv (s.beginCommand w) where
  pending v hv := by
    obtain rfl : w = v := by simpa using hv
    exact ⟨hw, rfl⟩
  rejectedIff := h.rejectedIff
  notDone h := by simp at h

theorem RecordInv.of_sameRecord (h : RecordInv s) (heng : t.eng = s.eng) (hdone : t.done = s.done)
    (hrejected : t.rejected = s.rejected) (hreason : t.reason = s.reason) : RecordInv t := by
  constructor
  · rw [heng, hdone]
    exact h.pending
  · rw [hrejected, hreason]
    exact h.rejectedIff
  · rw [heng, hdone, hrejected, hreason]
    exact h.notDone

end Record

/-! ## What is no part of the invariants -/

/-- ERR_BUSY_WRITE, the port's answer and what is not state of the block stand in no invariant. -/
theorem Inv.of_sameBlock {s t : State} (h : Inv s) (ht : SameBlock s t) : Inv t := by
  obtain ⟨hs, hm, hf, hr⟩ := (inv_iff s).1 h
  have ho := ht.sameOutcome
  refine (inv_iff t).2 ⟨?_, hm.of_sameCapture ht.sameCapture ho.found ho.matchOffset,
    hf.of_sameFrame hs.legalBuild ht.sameFrame ho.extracted ho.valid ho.reading ho.results,
    hr.of_sameRecord ho.eng ho.done ho.rejected ho.reason⟩
  exact hs.of_mem ht.sameFrame.build ht.mem (ht.sameCapture.capLen ▸ hs.capLenLe)

/-! ## Power-up (R127) -/

theorem inv_powerUp {b : Build} (hb : b.Legal) : Inv (State.powerUp b) := by
  refine (inv_iff _).2 ⟨⟨hb, State.powerUp_wf b, by simp [State.powerUp], Nat.zero_le _⟩,
    .of_cleared rfl rfl, .of_cleared rfl rfl rfl rfl, ⟨?_, ?_, ?_⟩⟩ <;> simp [State.powerUp]

theorem referenceBuild_legal : Config.referenceBuild.Legal := by decide

/-- Settles O48: at power-up there is nothing in memory, no match, no frame and no record. -/
theorem invariantsHoldAtReset : Obligations.InvariantsHoldAtReset :=
  ⟨inv_powerUp referenceBuild_legal, fun _ hb => inv_powerUp hb⟩

/-- A byte of FRAME_BUF that nothing has written reads 0x00 (R43). -/
theorem powerUp_frameByte {b : Build} (hb : b.Legal) {j : Nat} (hj : j < 12 * b.repeatCount) :
    frameByte (State.powerUp b) j = 0 := by
  have hlt : frameBase + j < capBase :=
    (Nat.add_lt_add_left hj frameBase).trans_le (frameBuf_below_capMem hb)
  simp [frameByte, State.powerUp, Memory.read, Memory.lookup, Memory.blank, hlt]

/-- A byte of CAP_MEM that nothing has written reads CAP_INIT (R47). -/
theorem powerUp_capBit (b : Build) (i : Nat) :
    capBit (State.powerUp b) i = (Config.capInit (i / 8)).getMsbD (i % 8) := by
  simp [capBit, State.powerUp, Memory.read, Memory.lookup, Memory.blank]

/-- Settles O25: the registers are those of the definition, and both memories are unwritten. -/
theorem powerUpState : Obligations.PowerUpState :=
  ⟨rfl, referenceBuild_legal, fun b => ⟨rfl, rfl, rfl, rfl, rfl, rfl, rfl, rfl, rfl, rfl, rfl, rfl,
    rfl, rfl, rfl, fun _ hj hb => powerUp_frameByte hb hj, powerUp_capBit b⟩⟩

/-! ## Commands -/

/-- The parts of the invariants that are about the data and not about the record. -/
structure DataInv (s : State) : Prop where
  storage : StorageInv s
  matched : MatchInv s
  frame : FrameInv s

section Data

variable {s t : State}

theorem Inv.data (h : Inv s) : DataInv s :=
  have ⟨hs, hm, hf, _⟩ := (inv_iff s).1 h
  ⟨hs, hm, hf⟩

theorem Inv.record (h : Inv s) : RecordInv s :=
  have ⟨_, _, _, hr⟩ := (inv_iff s).1 h
  hr

theorem DataInv.inv (h : DataInv s) (hr : RecordInv s) : Inv s :=
  (inv_iff s).2 ⟨h.storage, h.matched, h.frame, hr⟩

/-- The engine and the record are no data. -/
theorem DataInv.of_sameData (h : DataInv s) (eng : Engine) (done rejected : Bool)
    (reason : Reason) :
    DataInv { s with eng := eng, done := done, rejected := rejected, reason := reason } :=
  ⟨h.storage.of_mem rfl rfl h.storage.capLenLe,
    h.matched.of_sameCapture (.of_mem rfl rfl rfl rfl fun _ _ => rfl) rfl rfl,
    h.frame.of_sameFrame h.storage.legalBuild (.of_mem rfl rfl) rfl rfl rfl rfl⟩

theorem DataInv.recordComplete (h : DataInv s) : Inv s.recordComplete :=
  (h.of_sameData _ _ _ _).inv (.recordComplete s)

theorem DataInv.recordReject (h : DataInv s) {c : Reason} (hc : c ≠ .none) :
    Inv (s.recordReject c) :=
  (h.of_sameData _ _ _ _).inv (.recordReject s hc)

theorem DataInv.invalidateFound (h : DataInv s) : DataInv s.invalidateFound :=
  ⟨h.storage.of_mem rfl rfl h.storage.capLenLe, .of_cleared rfl rfl, .of_cleared rfl rfl rfl rfl⟩

theorem DataInv.invalidateExtracted (h : DataInv s) : DataInv s.invalidateExtracted :=
  ⟨h.storage.of_mem rfl rfl h.storage.capLenLe,
    h.matched.of_sameCapture (.of_mem rfl rfl rfl rfl fun _ _ => rfl) rfl rfl,
    .of_cleared rfl rfl rfl rfl⟩

theorem DataInv.invalidateValid (h : DataInv s) : DataInv s.invalidateValid :=
  ⟨h.storage.of_mem rfl rfl h.storage.capLenLe,
    h.matched.of_sameCapture (.of_mem rfl rfl rfl rfl fun _ _ => rfl) rfl rfl,
    h.frame.invalidateValid⟩

theorem DataInv.located (h : DataInv s) {k : Nat} (hk : FirstMatch s k) :
    DataInv (s.located k) :=
  ⟨h.storage.of_mem rfl rfl h.storage.capLenLe,
    .of_firstMatch hk (located_sameCapture s k) rfl rfl, .of_cleared rfl rfl rfl rfl⟩

/-- The frame buffer lies outside the capture (R5, R16). -/
theorem framed_sameCapture (hb : s.build.Legal) (k : Nat) : SameCapture s (s.framed k) :=
  .of_mem rfl rfl rfl rfl fun a ha =>
    framed_read_other s k a (.inr ((frameBuf_below_capMem hb).trans ha))

/-- A frame packed from a match starts with the preamble. -/
theorem DataInv.framed (h : DataInv s) {k : Nat} (hk : FirstMatch s k) : DataInv (s.framed k) :=
  have hb := h.storage.legalBuild
  ⟨h.storage.writeFrame rfl rfl (packed_length s k) h.storage.capLenLe,
    h.matched.of_sameCapture (framed_sameCapture hb k) rfl rfl,
    .of_preamble (frame_starts_with_preamble hb hk.here fun _ _ => framed_getMsbD s k) rfl rfl rfl⟩

theorem DataInv.decoded (h : DataInv s) {k : Nat} (hk : FirstMatch s k)
    (he : k + 96 * s.build.repeatCount ≤ s.capLen.toNat) : DataInv (s.decoded k) := by
  rw [← located_framed he]
  exact (h.located hk).framed (((located_sameCapture s k).firstMatch_iff k).2 hk)

theorem DataInv.validated (h : DataInv s) (hextracted : s.extracted = true)
    (ha : CopiesAgree s) : DataInv s.validated :=
  ⟨h.storage.of_mem rfl rfl h.storage.capLenLe,
    h.matched.of_sameCapture (.of_mem rfl rfl rfl rfl fun _ _ => rfl) rfl rfl,
    h.frame.validated hextracted ha⟩

theorem DataInv.withReading (h : DataInv s) (hvalid : s.valid = true) : DataInv s.withReading :=
  ⟨h.storage.of_mem rfl rfl h.storage.capLenLe,
    h.matched.of_sameCapture (.of_mem rfl rfl rfl rfl fun _ _ => rfl) rfl rfl,
    h.frame.withReading hvalid⟩

/-- A state whose frame buffer is cleared and whose flags and results are. -/
theorem DataInv.of_clearFrame (h : DataInv s) (hbuild : t.build = s.build)
    (hmem : t.mem = s.clearFrame.mem) (hcapLen : t.capLen.toNat ≤ s.build.capBitsMax)
    (hmatch : MatchInv t) (hframe : FrameInv t) : DataInv t :=
  ⟨h.storage.writeFrame hbuild hmem (by simp [frameLen, frameBytes]) hcapLen, hmatch, hframe⟩

end Data

/-- Every command but NOP ends in a record, with data that one of its stages has left. -/
theorem CommandEffect.inv {i : Instr} {s t : State} (h : CommandEffect s i t) (hi : Inv s) :
    Inv t := by
  have hd := hi.data
  cases h with
  | nop => exact hi
  | locate_found k hk => exact (hd.located hk).recordComplete
  | locate_notFound => exact hd.invalidateFound.recordReject (by simp)
  | extract_enough hfound => exact (hd.framed (hd.matched.foundMatch hfound)).recordComplete
  | extract_short => exact hd.invalidateExtracted.recordReject (by simp)
  | validate_agree hextracted ha => exact (hd.validated hextracted ha).recordComplete
  | validate_mismatch => exact hd.invalidateValid.recordReject (by simp)
  | fields hvalid => exact (hd.withReading hvalid).recordComplete
  | clear =>
    have hcleared : DataInv s.invalidateFound.clearFrame :=
      hd.of_clearFrame rfl rfl hd.storage.capLenLe (.of_cleared rfl rfl)
        (.of_cleared rfl rfl rfl rfl)
    exact hcleared.recordComplete
  | decode_notFound => exact hd.invalidateFound.recordReject (by simp)
  | decode_short k hk => exact (hd.located hk).recordReject (by simp)
  | decode_mismatch k hk he => exact (hd.decoded hk he).recordReject (by simp)
  | decode_agree k hk he ha =>
    exact (((hd.decoded hk he).validated rfl ha).withReading rfl).recordComplete
  | precondition => exact hd.recordReject (by simp)
  | illegal => exact hd.recordReject (by simp)

/-! ## Transactions and reset edges -/

/-- CAP_MEM lies above FRAME_BUF (R5, R16). -/
theorem capWordWrite_sameFrame {s : State} (hb : s.build.Legal) (w : Nat) (data : Word) :
    SameFrame s (capWordWrite s w data) := by
  refine ⟨by rw [capWordWrite_writes], fun j hj => capWordWrite_read_other s w data _ (.inl ?_)⟩
  have := frameBuf_below_capMem hb
  omega

/-- An input write invalidates FOUND and leaves the frame and the record alone. -/
theorem Inv.inputWritten {s t : State} (h : Inv s) (hstorage : StorageInv t)
    (hframe : SameFrame s t) (ht : t = { s with
      invert := t.invert, capLen := t.capLen, startOffset := t.startOffset, mem := t.mem }) :
    Inv t.inputWritten := by
  have hf : FrameInv t.inputWritten := by
    refine h.data.frame.of_sameFrame h.legalBuild ⟨hframe.build, hframe.frame⟩ ?_ ?_ ?_ ?_ <;>
      rw [ht] <;> rfl
  have hr : RecordInv t.inputWritten := by
    refine h.record.of_sameRecord ?_ ?_ ?_ ?_ <;> rw [ht] <;> rfl
  exact DataInv.inv ⟨hstorage.of_mem rfl rfl hstorage.capLenLe, .of_cleared rfl rfl, hf⟩ hr

theorem TransactionEffect.inv {s t : State} (h : TransactionEffect s t) (hi : Inv s) : Inv t := by
  have hanswer : Inv (s.answer 0 false) := hi.of_sameBlock (.intro _ _ _ _ _)
  cases h with
  | answered _ _ ht | openRead _ _ ht | dropped _ ht | clearsErr _ _ ht =>
    subst ht
    exact hi.of_sameBlock (.intro _ _ _ _ _)
  | issued w _ hw ht =>
    subst ht
    exact (hanswer.data.of_sameData _ _ _ _).inv (hanswer.record.beginCommand hw)
  | inputWrite inv len start _ hlen ht =>
    subst ht
    have hle : len.toNat ≤ s.build.capBitsMax := by
      rcases hlen with rfl | ⟨v, rfl⟩
      · exact hi.capLenLe
      · rw [saturate_toNat hi.legalBuild]
        exact Nat.min_le_right _ _
    exact hanswer.inputWritten (hanswer.data.storage.of_mem rfl rfl hle) (.of_mem rfl rfl) rfl
  | captureWrite w data _ ht =>
    subst ht
    refine hanswer.inputWritten (hanswer.data.storage.capWordWrite w data)
      (capWordWrite_sameFrame hanswer.legalBuild w data) ?_
    rw [capWordWrite_writes]

theorem Inv.resetEdge {s : State} (h : Inv s) (r : Option Response) :
    Inv { s.resetEdge with resp := r } := by
  refine DataInv.inv (h.data.of_clearFrame rfl rfl (Nat.zero_le _) (.of_cleared rfl rfl)
    (.of_cleared rfl rfl rfl rfl)) ⟨?_, ?_, ?_⟩ <;> simp

/-- Settles O47: who makes a step does not matter to the invariants, and what it does keeps them. -/
theorem everyStepKeepsTheInvariants : Obligations.EveryStepKeepsTheInvariants := by
  intro s t hi h
  cases step_cases h with
  | quiet _ _ ht => exact ht ▸ hi
  | bus op rest _ _ heff => exact heff.inv (hi.of_sameBlock (afterMove_sameBlock s rest))
  | wait rest _ _ heff => exact heff.inv (hi.of_sameBlock (.intro _ _ _ _ _))
  | reset op rest _ r ht =>
    subst ht
    exact (hi.of_sameBlock (afterMove_sameBlock s rest)).resetEdge r
  | engine w _ _ hexec => exact (exec_effect hexec).inv (hi.of_sameBlock (.intro _ _ _ _ _))

end Sys2Proof.Machine
end
